-- ==== Sys2Proof/Word.lean ====
section
/-! DEFINITION. The fixed widths of the machine (spec R5, R7, R8, R10): every quantity is an unsigned bit vector,
bit 0 least significant. -/

namespace Sys2Proof

/-- A memory byte, a general register, a timer, an 8-bit immediate NN (R5, R8). -/
abbrev Byte := BitVec 8

/-- An instruction word, the index register I, the program counter PC, a call-stack entry (R5). -/
abbrev Word := BitVec 16

/-- A 4-bit field N (sprite rows), a key code 0..15 (R30, R71). -/
abbrev Nibble := BitVec 4

/-- A 12-bit address immediate NNN (R71). -/
abbrev Addr12 := BitVec 12

/-- The index of a general register, 0..15: always a 4-bit field X or Y (R20, R81). -/
abbrev Reg := BitVec 4

/-- VF, V[15], the one flag register (R21). -/
abbrev vf : Reg := 0xF#4

end Sys2Proof
end

