-- ==== Sys2Proof/Syntax.lean ====
section
/-! DEFINITION. The instructions: one constructor per row of spec/opcode_table.json, in the order of R74.
The constructors' names are the operation tags of R73, the operands the fields of R71. -/

namespace Sys2Proof

/-- An instruction with its operand fields. Every field has the width of its bit field, so every term is an
instruction the encoding can express: register indices and immediates need no range check (R75, R81). -/
inductive Instr where
  /-- 00E0 `CLS` (R170). -/
  | cls
  /-- 00EE `RET` (R110). -/
  | ret
  /-- 1NNN `JP nnn` (R111). -/
  | jp (nnn : Addr12)
  /-- 2NNN `CALL nnn` (R112). -/
  | call (nnn : Addr12)
  /-- 3XNN `SE Vx, nn` (R113). -/
  | seImm (x : Reg) (nn : Byte)
  /-- 4XNN `SNE Vx, nn` (R114). -/
  | sneImm (x : Reg) (nn : Byte)
  /-- 5XY0 `SE Vx, Vy` (R115). -/
  | seReg (x y : Reg)
  /-- 6XNN `LD Vx, nn` (R131). -/
  | ldImm (x : Reg) (nn : Byte)
  /-- 7XNN `ADD Vx, nn` (R132). -/
  | addImm (x : Reg) (nn : Byte)
  /-- 8XY0 `LD Vx, Vy` (R133). -/
  | ldReg (x y : Reg)
  /-- 8XY1 `OR Vx, Vy` (R134). -/
  | orReg (x y : Reg)
  /-- 8XY2 `AND Vx, Vy` (R135). -/
  | andReg (x y : Reg)
  /-- 8XY3 `XOR Vx, Vy` (R136). -/
  | xorReg (x y : Reg)
  /-- 8XY4 `ADD Vx, Vy` (R137). -/
  | addReg (x y : Reg)
  /-- 8XY5 `SUB Vx, Vy` (R138). -/
  | sub (x y : Reg)
  /-- 8XY6 `SHR Vx, Vy` (R139); Y is kept, though the default setting ignores it (R76). -/
  | shr (x y : Reg)
  /-- 8XY7 `SUBN Vx, Vy` (R140). -/
  | subn (x y : Reg)
  /-- 8XYE `SHL Vx, Vy` (R141); Y is kept, as in `shr`. -/
  | shl (x y : Reg)
  /-- 9XY0 `SNE Vx, Vy` (R116). -/
  | sneReg (x y : Reg)
  /-- ANNN `LD I, nnn` (R150). -/
  | ldI (nnn : Addr12)
  /-- BNNN `JP V0, nnn` (R117). -/
  | jpV0 (nnn : Addr12)
  /-- CXNN `RND Vx, nn` (R186). -/
  | rnd (x : Reg) (nn : Byte)
  /-- DXYN `DRW Vx, Vy, n` (R171). -/
  | drw (x y : Reg) (n : Nibble)
  /-- EX9E `SKP Vx` (R183). -/
  | skp (x : Reg)
  /-- EXA1 `SKNP Vx` (R184). -/
  | sknp (x : Reg)
  /-- FX07 `LD Vx, DT` (R180). -/
  | ldFromDt (x : Reg)
  /-- FX0A `LD Vx, K` (R185). -/
  | ldKey (x : Reg)
  /-- FX15 `LD DT, Vx` (R181). -/
  | ldDt (x : Reg)
  /-- FX18 `LD ST, Vx` (R182). -/
  | ldSt (x : Reg)
  /-- FX1E `ADD I, Vx` (R151). -/
  | addI (x : Reg)
  /-- FX29 `LD F, Vx` (R152). -/
  | ldGlyph (x : Reg)
  /-- FX33 `LD B, Vx` (R153). -/
  | bcd (x : Reg)
  /-- FX55 `LD [I], Vx` (R154). -/
  | store (x : Reg)
  /-- FX65 `LD Vx, [I]` (R155). -/
  | load (x : Reg)
  deriving DecidableEq, Repr

/-- The mnemonic of an instruction's row, as spec/opcode_table.json spells it. -/
def Instr.mnemonic : Instr → String
  | .cls => "CLS"
  | .ret => "RET"
  | .jp _ => "JP_nnn"
  | .call _ => "CALL_nnn"
  | .seImm _ _ => "SE_Vx__nn"
  | .sneImm _ _ => "SNE_Vx__nn"
  | .seReg _ _ => "SE_Vx__Vy"
  | .ldImm _ _ => "LD_Vx__nn"
  | .addImm _ _ => "ADD_Vx__nn"
  | .ldReg _ _ => "LD_Vx__Vy"
  | .orReg _ _ => "OR_Vx__Vy"
  | .andReg _ _ => "AND_Vx__Vy"
  | .xorReg _ _ => "XOR_Vx__Vy"
  | .addReg _ _ => "ADD_Vx__Vy"
  | .sub _ _ => "SUB_Vx__Vy"
  | .shr _ _ => "SHR_Vx__Vy"
  | .subn _ _ => "SUBN_Vx__Vy"
  | .shl _ _ => "SHL_Vx__Vy"
  | .sneReg _ _ => "SNE_Vx__Vy"
  | .ldI _ => "LD_I__nnn"
  | .jpV0 _ => "JP_V0__nnn"
  | .rnd _ _ => "RND_Vx__nn"
  | .drw _ _ _ => "DRW_Vx__Vy__n"
  | .skp _ => "SKP_Vx"
  | .sknp _ => "SKNP_Vx"
  | .ldFromDt _ => "LD_Vx__DT"
  | .ldKey _ => "LD_Vx__K"
  | .ldDt _ => "LD_DT__Vx"
  | .ldSt _ => "LD_ST__Vx"
  | .addI _ => "ADD_I__Vx"
  | .ldGlyph _ => "LD_F__Vx"
  | .bcd _ => "LD_B__Vx"
  | .store _ => "LD__I___Vx"
  | .load _ => "LD_Vx___I"

end Sys2Proof
end

