-- ==== Sys2Proof/WellFormed.lean ====
section
/-! DEFINITION. What the model checks before it accepts a term.
An instruction needs no check: each field of `Instr` has exactly the width of its bit field, which is the
structural guarantee of R81, so no ill-formed instruction can be written.
The one checked input is the program image of `reset` (R231, R234). -/

namespace Sys2Proof

/-- R234: the image lies between 0x200 and 0xFFF, so it has at most 3584 bytes. -/
def imageFits (image : List Byte) : Bool := decide (image.length ≤ 3584)

end Sys2Proof
end

