-- ==== Sys2Proof/Decode.lean ====
section
/-! DEFINITION. The decoder (R71, R73, R77, R78), total on every word and on every list of bytes, the encoder, and
the opcode table of R74 as data. Byte order is decided in `wordOfBytes` and `bytesOfWord` alone (R55). -/

namespace Sys2Proof

/-! ## Fields (R71) -/

/-- Family, bits 15..12. -/
def family (w : Word) : Nibble := w.extractLsb' 12 4

/-- X, bits 11..8. -/
def fieldX (w : Word) : Reg := w.extractLsb' 8 4

/-- Y, bits 7..4. -/
def fieldY (w : Word) : Reg := w.extractLsb' 4 4

/-- N, bits 3..0. -/
def fieldN (w : Word) : Nibble := w.extractLsb' 0 4

/-- NN, bits 7..0. -/
def fieldNN (w : Word) : Byte := w.extractLsb' 0 8

/-- NNN, bits 11..0. -/
def fieldNNN (w : Word) : Addr12 := w.extractLsb' 0 12

/-! ## Byte order (R55) -/

/-- The instruction word of the byte at PC and the byte at PC + 1: the first is the high-order byte
(R55, big-endian, 92_eei_decisions.md D1; log 7). -/
def wordOfBytes (first second : Byte) : Word := first ++ second

/-- The two bytes of a word in the order of their addresses. -/
def bytesOfWord (w : Word) : List Byte := [w.extractLsb' 8 8, w.extractLsb' 0 8]

/-! ## The decoder (R73) -/

/-- What decoding answers: an operation, or a rejection by name. -/
inductive Decoded where
  /-- One of the 34 operations of R74. -/
  | op (i : Instr)
  /-- The Unsupported variant of R73 and R78: no row of R74 matches. -/
  | unsupported
  /-- Fewer than two bytes were given (R70: every instruction is two bytes long). -/
  | truncated
  deriving DecidableEq, Repr

/-- Family 0x0: the two words 0x00E0 and 0x00EE, all four digits literal (R73, R77). -/
def decode0 (w : Word) : Decoded :=
  if w = 0x00E0#16 then .op .cls
  else if w = 0x00EE#16 then .op .ret
  else .unsupported

/-- Family 0x8: the trailing nibble selects (R73). -/
def decode8 (w : Word) : Decoded :=
  let x := fieldX w
  let y := fieldY w
  let n := fieldN w
  if n = 0x0#4 then .op (.ldReg x y)
  else if n = 0x1#4 then .op (.orReg x y)
  else if n = 0x2#4 then .op (.andReg x y)
  else if n = 0x3#4 then .op (.xorReg x y)
  else if n = 0x4#4 then .op (.addReg x y)
  else if n = 0x5#4 then .op (.sub x y)
  else if n = 0x6#4 then .op (.shr x y)
  else if n = 0x7#4 then .op (.subn x y)
  else if n = 0xE#4 then .op (.shl x y)
  else .unsupported

/-- Family 0xE: the trailing byte selects (R73). -/
def decodeE (w : Word) : Decoded :=
  if fieldNN w = 0x9E#8 then .op (.skp (fieldX w))
  else if fieldNN w = 0xA1#8 then .op (.sknp (fieldX w))
  else .unsupported

/-- Family 0xF: the trailing byte selects (R73). -/
def decodeF (w : Word) : Decoded :=
  let x := fieldX w
  let nn := fieldNN w
  if nn = 0x07#8 then .op (.ldFromDt x)
  else if nn = 0x0A#8 then .op (.ldKey x)
  else if nn = 0x15#8 then .op (.ldDt x)
  else if nn = 0x18#8 then .op (.ldSt x)
  else if nn = 0x1E#8 then .op (.addI x)
  else if nn = 0x29#8 then .op (.ldGlyph x)
  else if nn = 0x33#8 then .op (.bcd x)
  else if nn = 0x55#8 then .op (.store x)
  else if nn = 0x65#8 then .op (.load x)
  else .unsupported

/-- The decoder of R73: total on the 65536 words, exact on every literal digit (R77). -/
def decode (w : Word) : Decoded :=
  let f := family w
  if f = 0x0#4 then decode0 w
  else if f = 0x1#4 then .op (.jp (fieldNNN w))
  else if f = 0x2#4 then .op (.call (fieldNNN w))
  else if f = 0x3#4 then .op (.seImm (fieldX w) (fieldNN w))
  else if f = 0x4#4 then .op (.sneImm (fieldX w) (fieldNN w))
  else if f = 0x5#4 then
    if fieldN w = 0x0#4 then .op (.seReg (fieldX w) (fieldY w)) else .unsupported
  else if f = 0x6#4 then .op (.ldImm (fieldX w) (fieldNN w))
  else if f = 0x7#4 then .op (.addImm (fieldX w) (fieldNN w))
  else if f = 0x8#4 then decode8 w
  else if f = 0x9#4 then
    if fieldN w = 0x0#4 then .op (.sneReg (fieldX w) (fieldY w)) else .unsupported
  else if f = 0xA#4 then .op (.ldI (fieldNNN w))
  else if f = 0xB#4 then .op (.jpV0 (fieldNNN w))
  else if f = 0xC#4 then .op (.rnd (fieldX w) (fieldNN w))
  else if f = 0xD#4 then .op (.drw (fieldX w) (fieldY w) (fieldN w))
  else if f = 0xE#4 then decodeE w
  else decodeF w

/-- Decoding a list of bytes: the first two bytes form the word (R55, R70); what follows is handed back. -/
def decodeBytes : List Byte → Decoded × List Byte
  | first :: second :: rest => (decode (wordOfBytes first second), rest)
  | short => (.truncated, short)

/-! ## The encoder (R72, R74) -/

/-- The word of an instruction, digit by digit from the patterns of R74. -/
def encode : Instr → Word
  | .cls => 0x00E0#16
  | .ret => 0x00EE#16
  | .jp nnn => 0x1#4 ++ nnn
  | .call nnn => 0x2#4 ++ nnn
  | .seImm x nn => 0x3#4 ++ x ++ nn
  | .sneImm x nn => 0x4#4 ++ x ++ nn
  | .seReg x y => 0x5#4 ++ x ++ y ++ 0x0#4
  | .ldImm x nn => 0x6#4 ++ x ++ nn
  | .addImm x nn => 0x7#4 ++ x ++ nn
  | .ldReg x y => 0x8#4 ++ x ++ y ++ 0x0#4
  | .orReg x y => 0x8#4 ++ x ++ y ++ 0x1#4
  | .andReg x y => 0x8#4 ++ x ++ y ++ 0x2#4
  | .xorReg x y => 0x8#4 ++ x ++ y ++ 0x3#4
  | .addReg x y => 0x8#4 ++ x ++ y ++ 0x4#4
  | .sub x y => 0x8#4 ++ x ++ y ++ 0x5#4
  | .shr x y => 0x8#4 ++ x ++ y ++ 0x6#4
  | .subn x y => 0x8#4 ++ x ++ y ++ 0x7#4
  | .shl x y => 0x8#4 ++ x ++ y ++ 0xE#4
  | .sneReg x y => 0x9#4 ++ x ++ y ++ 0x0#4
  | .ldI nnn => 0xA#4 ++ nnn
  | .jpV0 nnn => 0xB#4 ++ nnn
  | .rnd x nn => 0xC#4 ++ x ++ nn
  | .drw x y n => 0xD#4 ++ x ++ y ++ n
  | .skp x => 0xE#4 ++ x ++ 0x9E#8
  | .sknp x => 0xE#4 ++ x ++ 0xA1#8
  | .ldFromDt x => 0xF#4 ++ x ++ 0x07#8
  | .ldKey x => 0xF#4 ++ x ++ 0x0A#8
  | .ldDt x => 0xF#4 ++ x ++ 0x15#8
  | .ldSt x => 0xF#4 ++ x ++ 0x18#8
  | .addI x => 0xF#4 ++ x ++ 0x1E#8
  | .ldGlyph x => 0xF#4 ++ x ++ 0x29#8
  | .bcd x => 0xF#4 ++ x ++ 0x33#8
  | .store x => 0xF#4 ++ x ++ 0x55#8
  | .load x => 0xF#4 ++ x ++ 0x65#8

/-- The two bytes of an instruction in the order of their addresses. -/
def encodeBytes (i : Instr) : List Byte := bytesOfWord (encode i)

/-! ## The opcode table as data (R74) -/

/-- One row of R74: a word selects it iff `w AND mask = code` (R77). -/
structure OpcodeRow where
  mnemonic : String
  code : Word
  mask : Word
  deriving DecidableEq, Repr

/-- R77. -/
def OpcodeRow.selects (r : OpcodeRow) (w : Word) : Bool := w &&& r.mask == r.code

/-- Rows 1 to 19 of R74. -/
def opcodeRowsFirst : List OpcodeRow :=
  [⟨"CLS", 0x00E0#16, 0xFFFF#16⟩, ⟨"RET", 0x00EE#16, 0xFFFF#16⟩,
   ⟨"JP_nnn", 0x1000#16, 0xF000#16⟩, ⟨"CALL_nnn", 0x2000#16, 0xF000#16⟩,
   ⟨"SE_Vx__nn", 0x3000#16, 0xF000#16⟩, ⟨"SNE_Vx__nn", 0x4000#16, 0xF000#16⟩,
   ⟨"SE_Vx__Vy", 0x5000#16, 0xF00F#16⟩, ⟨"LD_Vx__nn", 0x6000#16, 0xF000#16⟩,
   ⟨"ADD_Vx__nn", 0x7000#16, 0xF000#16⟩, ⟨"LD_Vx__Vy", 0x8000#16, 0xF00F#16⟩,
   ⟨"OR_Vx__Vy", 0x8001#16, 0xF00F#16⟩, ⟨"AND_Vx__Vy", 0x8002#16, 0xF00F#16⟩,
   ⟨"XOR_Vx__Vy", 0x8003#16, 0xF00F#16⟩, ⟨"ADD_Vx__Vy", 0x8004#16, 0xF00F#16⟩,
   ⟨"SUB_Vx__Vy", 0x8005#16, 0xF00F#16⟩, ⟨"SHR_Vx__Vy", 0x8006#16, 0xF00F#16⟩,
   ⟨"SUBN_Vx__Vy", 0x8007#16, 0xF00F#16⟩, ⟨"SHL_Vx__Vy", 0x800E#16, 0xF00F#16⟩,
   ⟨"SNE_Vx__Vy", 0x9000#16, 0xF00F#16⟩]

/-- Rows 20 to 34 of R74. -/
def opcodeRowsLast : List OpcodeRow :=
  [⟨"LD_I__nnn", 0xA000#16, 0xF000#16⟩, ⟨"JP_V0__nnn", 0xB000#16, 0xF000#16⟩,
   ⟨"RND_Vx__nn", 0xC000#16, 0xF000#16⟩, ⟨"DRW_Vx__Vy__n", 0xD000#16, 0xF000#16⟩,
   ⟨"SKP_Vx", 0xE09E#16, 0xF0FF#16⟩, ⟨"SKNP_Vx", 0xE0A1#16, 0xF0FF#16⟩,
   ⟨"LD_Vx__DT", 0xF007#16, 0xF0FF#16⟩, ⟨"LD_Vx__K", 0xF00A#16, 0xF0FF#16⟩,
   ⟨"LD_DT__Vx", 0xF015#16, 0xF0FF#16⟩, ⟨"LD_ST__Vx", 0xF018#16, 0xF0FF#16⟩,
   ⟨"ADD_I__Vx", 0xF01E#16, 0xF0FF#16⟩, ⟨"LD_F__Vx", 0xF029#16, 0xF0FF#16⟩,
   ⟨"LD_B__Vx", 0xF033#16, 0xF0FF#16⟩, ⟨"LD__I___Vx", 0xF055#16, 0xF0FF#16⟩,
   ⟨"LD_Vx___I", 0xF065#16, 0xF0FF#16⟩]

/-- The 34 rows of R74, in its order. -/
def opcodeTable : List OpcodeRow := opcodeRowsFirst ++ opcodeRowsLast

/-! ## The host's numbering of an instruction's bits -/

/-- The word of an instruction given as the table numbers its bits: bit 0 of `w` is bit 0 of the word, and bits
from `nbits` on are 0. -/
def tableWord (nbits w : Nat) : Word := BitVec.ofNat 16 (w % 2 ^ nbits)

/-- The instruction the decoder reads from the bytes of that word, laid out as the hardware stores them. -/
def decodeTableWord (nbits w : Nat) : Option Instr :=
  match (decodeBytes (bytesOfWord (tableWord nbits w))).1 with
  | .op i => some i
  | .unsupported => none
  | .truncated => none

end Sys2Proof
end

