-- ==== Sys2Proof/Config.lean ====
section
/-! DEFINITION. The parameters the spec leaves open (R6, R36) and the environment's free answers (R30, R31, R96).
The values of the two quirk switches are a field of the state that no step changes (log 3).
The environment's answers are opaque: nothing in Lean can evaluate one (log 4). -/

namespace Sys2Proof

/-- The two quirk switches of R6. Both are `false` on this hardware (92_eei_decisions.md D18, D19). -/
structure Config where
  /-- `QUIRK_SHIFT_VY`: 8XY6 and 8XYE read the operand to shift from Vy, not Vx. -/
  quirkShiftVy : Bool
  /-- `QUIRK_LOADSTORE_INC`: FX55 and FX65 add X + 1 to I afterwards. -/
  quirkLoadStoreInc : Bool
  deriving DecidableEq, Repr

/-- The setting that is normative for this hardware (R6). -/
def Config.normative : Config := { quirkShiftVy := false, quirkLoadStoreInc := false }

/-- What the environment answers at one query of an input, or at one call of `tick`. One answer serves one query,
and a query reads the part it asks for: `key_down` reads `keys`, `any_key` reads `keys` and `pick`, `rand_byte`
reads `rand`, a `tick` call reads `batch` (R96, R99). -/
structure Answer where
  /-- `KEYS`: bit k is 1 iff key k is down at this moment (R30). -/
  keys : BitVec 16
  /-- The key the environment prefers to report when several are down (R30: a free draw). -/
  pick : Nibble
  /-- `rand_byte()` (R31: a free draw). -/
  rand : Byte
  /-- `BATCH`, the argument of a `tick` call (R96: any natural number, free at each tick). -/
  batch : Nat
  deriving DecidableEq, Repr, Inhabited

/-- The environment's n-th answer: a free value. The spec fixes no law that joins two answers (R31, R99, D16). -/
opaque Config.answer : Nat → Answer

end Sys2Proof
end

