-- ==== Sys2Proof/Machine/State.lean ====
section
/-! DEFINITION. The state of the machine as plain data (10_state.md), the reasons a step could stop, and the state
after reset. The spec's own state is `(V, I, PC, STACK, DT, ST, FB, MEM, MODE)`; the last four fields of `State`
are the model's own (logs 3, 4, 5). -/

namespace Sys2Proof.Machine

/-- Why the machine halted (R200). A halt is a state of the machine, not a fault of the model. -/
inductive HaltReason where
  /-- A fetched word that matches no row of the opcode table (R201). -/
  | unsupportedOpcode
  /-- 2NNN with sixteen entries on the stack (R202). -/
  | stackOverflow
  /-- 00EE with an empty stack (R203). -/
  | stackUnderflow
  /-- A fetch, or an access through I, at an address of 4096 or more (R204). -/
  | addressOutOfRange
  deriving DecidableEq, Repr

/-- MODE (R28). -/
inductive Mode where
  /-- The next cycle fetches and executes the instruction at PC. -/
  | running
  /-- The FX0A at PC is waiting for a key; `x` is the register that will receive the key code. -/
  | awaitingKey (x : Reg)
  /-- Execution has stopped for good. -/
  | halted (reason : HaltReason)
  deriving DecidableEq, Repr

/-- FB (R27): `fb[y][x]` is the pixel in row y, column x; true is lit. -/
abbrev FrameBuffer := Vector (Vector Bool 64) 32

/-- The whole state of the machine. -/
structure State where
  /-- V0..VF (R20). -/
  v : Vector Byte 16
  /-- The index register I (R22). -/
  i : Word
  /-- The program counter PC (R23). -/
  pc : Word
  /-- STACK (R24): the saved return addresses, the last pushed first; SP is its length. -/
  stack : List Word
  /-- The delay timer DT (R25). -/
  dt : Byte
  /-- The sound timer ST (R26). -/
  st : Byte
  /-- The framebuffer FB (R27). -/
  fb : FrameBuffer
  /-- MEM (R50): the bytes that differ from what an unlisted address reads as, addresses strictly rising. -/
  mem : List Host.Cell
  /-- MODE (R28). -/
  mode : Mode
  /-- Where the host's driving call stands (R96): `none` between ticks, `some n` inside a tick with n cycles left
  before the decay. The model's own field (log 5). -/
  tick : Option Nat
  /-- The environment's next answers, in the order of the queries; past its end the answers are
  `Config.answer`. The model's own field (log 4). -/
  env : List Answer
  /-- How many answers the environment has given. The model's own field (log 4). -/
  queries : Nat
  /-- The quirk switches of R6; no step changes them. The model's own field (log 3). -/
  config : Config
  deriving DecidableEq, Repr

/-- The reasons a step could stop with a fault. There are none: whatever the spec says of this machine ends a
cycle in a next state, a halt included (R91, R207). Safe: no behaviour of the hardware is left out by it. -/
inductive Fault where
  deriving DecidableEq, Repr

/-- The reasons the model gives no meaning. -/
inductive Refusal where
  /-- Raised by an arm of `exec` for an instruction that has no meaning yet; no arm raises it. Safe. -/
  | notModelled (mnemonic : String)
  /-- Raised by the host's construction of a machine, never by a step, for an image of more than 3584 bytes: the
  spec says that no machine state results (R234). Safe. -/
  | imageTooLong
  deriving DecidableEq, Repr

/-- The state right after reset with an empty image (R34, R232). Memory lists nothing: an unlisted address reads as
its reset contents. The four fields of the model's own stand as logs 3, 4 and 5 say: between ticks, no answer
scripted, none given, the normative quirk setting. -/
def State.reset : State where
  v := Vector.replicate 16 0#8
  i := 0#16
  pc := 0x200#16
  stack := []
  dt := 0#8
  st := 0#8
  fb := Vector.replicate 32 (Vector.replicate 64 false)
  mem := []
  mode := .running
  tick := none
  env := []
  queries := 0
  config := Config.normative

end Sys2Proof.Machine
end

