-- ==== Sys2Proof/Machine/Ops.lean ====
section
/-! DEFINITION. The named operations over registers, the stack, memory, the framebuffer, MODE and the environment:
the primitives of R10. Every meaning is written over these. -/

namespace Sys2Proof.Machine

/-! ## Memory (20_memory.md) -/

/-- What an address that memory does not list reads as: its reset contents, the glyph table below 0x050 and zero
elsewhere (R34, R52; log 8). -/
def resetByte (a : Nat) : Byte := (glyphBytesLow ++ glyphBytesHigh).getD a 0#8

/-- `MemRead(a, 1)`, without the range check, which `State.checked` makes once per instruction (R57). -/
def Memory.read : List Host.Cell → Nat → Byte
  | [], a => resetByte a
  | c :: m, a => if a = c.1 then c.2 else Memory.read m a

/-- `MemWrite(a, 1, b)`, without the range check. It keeps the canonical form: addresses strictly rising, and no
entry equal to what an unlisted address reads as. -/
def Memory.write : List Host.Cell → Nat → Byte → List Host.Cell
  | [], a, b => if b = resetByte a then [] else [(a, b)]
  | c :: m, a, b =>
    if a < c.1 then (if b = resetByte a then c :: m else (a, b) :: c :: m)
    else if a = c.1 then (if b = resetByte a then m else (a, b) :: m)
    else c :: Memory.write m a b

/-- Single-byte writes in ascending address order (R54, R59). -/
def Memory.writeBytes : List Host.Cell → Nat → List Byte → List Host.Cell
  | m, _, [] => m
  | m, a, b :: bs => Memory.writeBytes (Memory.write m a b) (a + 1) bs

/-- Single-byte reads of `n` bytes in ascending address order (R54, R59). -/
def Memory.readBytes (m : List Host.Cell) (a n : Nat) : List Byte :=
  (List.range n).map fun k => Memory.read m (a + k)

/-- The canonical form: addresses below 4096 and strictly rising, and no entry equal to what an unlisted address
reads as. -/
abbrev Memory.wf (m : List Host.Cell) : Prop :=
  m.Pairwise (fun c d => c.1 < d.1) ∧ ∀ c ∈ m, c.1 < 4096 ∧ c.2 ≠ resetByte c.1

/-- The byte of the state's memory at an address. -/
def State.byte (s : State) (a : Nat) : Byte := Memory.read s.mem a

/-- Consecutive bytes stored from an address on. -/
def State.storeBytes (s : State) (a : Nat) (bs : List Byte) : State :=
  { s with mem := Memory.writeBytes s.mem a bs }

/-! ## Registers (R20 to R26) -/

/-- `V[x]`. -/
def State.reg (s : State) (x : Reg) : Byte := s.v[x.toNat]'(x.isLt)

/-- `V[x] <- b`. -/
def State.setReg (s : State) (x : Reg) (b : Byte) : State := { s with v := s.v.set x.toNat b x.isLt }

/-- VF written as a flag: 1 or 0 (R21). -/
def State.setFlag (s : State) (flag : Bool) : State := s.setReg vf (if flag then 1#8 else 0#8)

/-- `I <- a`. -/
def State.setI (s : State) (a : Word) : State := { s with i := a }

/-- `DT <- b`. -/
def State.setDt (s : State) (b : Byte) : State := { s with dt := b }

/-- `ST <- b`. -/
def State.setSt (s : State) (b : Byte) : State := { s with st := b }

/-- The first `n` registers loaded from memory at `a`, in ascending register order (R155, R157). -/
def State.loadRegs (s : State) (a : Nat) : Nat → State
  | 0 => s
  | n + 1 => (s.loadRegs a n).setReg (BitVec.ofNat 4 n) (s.byte (a + n))

/-- The values of the first `n` registers, V0 first (R154). -/
def State.firstRegs (s : State) (n : Nat) : List Byte :=
  (List.range n).map fun k => s.reg (BitVec.ofNat 4 k)

/-! ## The program counter (R92, R93) -/

/-- `next`: `PC <- (PC + 2) mod 65536`. -/
def State.advance (s : State) : State := { s with pc := s.pc + 2#16 }

/-- `skip`: `PC <- (PC + 4) mod 65536`. -/
def State.skip (s : State) : State := { s with pc := s.pc + 4#16 }

/-- `if c then skip else next`. -/
def State.skipIf (s : State) (c : Bool) : State := { s with pc := if c then s.pc + 4#16 else s.pc + 2#16 }

/-- `PC <- target`, unchecked (R118). -/
def State.jump (s : State) (target : Word) : State := { s with pc := target }

/-! ## The call stack (R24) -/

/-- SP. -/
def State.sp (s : State) : Nat := s.stack.length

/-- `push(a)`. -/
def State.push (s : State) (a : Word) : State := { s with stack := a :: s.stack }

/-! ## Halts: the machine's one exception mechanism (R200, R207)

Entry changes MODE and nothing else: PC stays at the offender, nothing is saved, there is no handler and no vector.
There is no return from a halt to stand beside it (R208): the only way out is the host's construction of a new
machine, `State.construct`. -/

/-- `halt(reason)` (R207). -/
def State.halt (s : State) (reason : HaltReason) : State := { s with mode := .halted reason }

/-- R57: every one of the `n` addresses from `a` on is at most 0xFFF; no address is touched when `n` is 0. -/
def rangeOk (a n : Nat) : Bool := decide (n = 0 ∨ a + n ≤ 4096)

/-- An effect that touches the `n` bytes of memory from I on: the check covers them all and precedes every effect
(R57, R157). The effective address is the natural-number sum, not reduced (R156). -/
def State.checked (s : State) (n : Nat) (effect : State) : State :=
  if rangeOk s.i.toNat n then effect else s.halt .addressOutOfRange

/-! ## The framebuffer (R27, R172, R173) -/

/-- All pixels off. -/
def FrameBuffer.blank : FrameBuffer := Vector.replicate 32 (Vector.replicate 64 false)

/-- `FB[y][x]`. -/
def FrameBuffer.pixel (fb : FrameBuffer) (x : Fin 64) (y : Fin 32) : Bool := fb[y][x]

/-- `FB[y][x] <- b`. -/
def FrameBuffer.setPixel (fb : FrameBuffer) (x : Fin 64) (y : Fin 32) (b : Bool) : FrameBuffer :=
  fb.set y.val (fb[y].set x.val b x.isLt) y.isLt

/-- The framebuffer of the state, rewritten. -/
def State.setFb (s : State) (fb : FrameBuffer) : State := { s with fb := fb }

/-! ## Instruction fetch (R55) -/

/-- `Fetch(PC)`, without the range check, which the cycle makes first (R91). -/
def State.fetchWord (s : State) : Word := wordOfBytes (s.byte s.pc.toNat) (s.byte (s.pc.toNat + 1))

/-! ## The environment (R30, R31, R96, R99; log 4) -/

/-- The environment's answer to the query being made: the next scripted one, else a free value. -/
def State.answer (s : State) : Answer :=
  match s.env with
  | a :: _ => a
  | [] => Config.answer s.queries

/-- The query has been answered: the next one gets another answer. -/
def State.answered (s : State) : State := { s with env := s.env.tail, queries := s.queries + 1 }

/-! ## The tick (R96, R97; log 5) -/

/-- One step of a timer: down by 1, floored at 0 (R96). -/
def decay (t : Byte) : Byte := if t = 0#8 then 0#8 else t - 1#8

/-- Both timers decay, independently (R97). -/
def State.decayTimers (s : State) : State := { s with dt := decay s.dt, st := decay s.st }

/-- The host calls `tick(BATCH)`: BATCH cycles are to run before the decay. -/
def State.beginTick (s : State) : State :=
  { s with tick := some s.answer.batch, env := s.env.tail, queries := s.queries + 1 }

/-- The tick's cycles are used up: the timers decay and control goes back to the host. -/
def State.endTick (s : State) : State := { s with tick := none, dt := decay s.dt, st := decay s.st }

end Sys2Proof.Machine
end

