-- ==== Sys2Proof/Machine/Operands.lean ====
section
/-! DEFINITION. The operand forms: immediates widened to an address (R75), the shifted operand and the index update
under the quirk switches (R139, R154), the key and glyph selected by a register's low nibble (R152, R187), and the
answers of the keypad (R30). -/

namespace Sys2Proof.Machine

/-- `zext_16(NNN)` (R75). -/
def addrOfImm (nnn : Addr12) : Word := nnn.setWidth 16

/-- `zext_16(V[x])` (R117, R151). -/
def wordOfByte (b : Byte) : Word := b.setWidth 16

/-- The operand 8XY6 and 8XYE shift: V[X], or V[Y] under `QUIRK_SHIFT_VY` (R139, R141). -/
def State.shiftOperand (s : State) (x y : Reg) : Byte :=
  if s.config.quirkShiftVy then s.reg y else s.reg x

/-- I after FX55 and FX65: unchanged, or `(I + X + 1) mod 65536` under `QUIRK_LOADSTORE_INC` (R154, R155). -/
def State.indexAfterTransfer (s : State) (x : Reg) : Word :=
  if s.config.quirkLoadStoreInc then s.i + BitVec.ofNat 16 (x.toNat + 1) else s.i

/-- The key that EX9E and EXA1 select: the low nibble of Vx (R187, 92_eei_decisions.md D11). -/
def keyIndex (b : Byte) : Nibble := b.extractLsb' 0 4

/-- The digit that FX29 selects: the low nibble of Vx (R152, 92_eei_decisions.md D12). -/
def glyphIndex (b : Byte) : Nibble := b.extractLsb' 0 4

/-- The address of a digit's glyph (R52, R152). -/
def glyphAddress (d : Nibble) : Word := BitVec.ofNat 16 (5 * d.toNat)

/-- The digits FX33 stores: hundreds, tens, ones (R153). -/
def bcdDigits (b : Byte) : List Byte :=
  [BitVec.ofNat 8 (b.toNat / 100), BitVec.ofNat 8 (b.toNat / 10 % 10), BitVec.ofNat 8 (b.toNat % 10)]

/-- `key_down(k)` for the vector KEYS (R30). -/
def keyDown (keys : BitVec 16) (k : Nibble) : Bool := keys.getLsbD k.toNat

/-- `any_key()` for the vector KEYS (R30): `none` iff no key is down; else a key that is down. The environment's
preference `pick` decides among several: the first key down from `pick` on, counting round from F to 0. A key
that is down is reported when it is the one preferred, so every choice R30 allows is made by some `pick`. -/
def anyKey (keys : BitVec 16) (pick : Nibble) : Option Nibble :=
  ((List.range 16).map fun j => pick + BitVec.ofNat 4 j).find? (keyDown keys)

/-- `any_key()` as this query is answered. -/
def State.reportedKey (s : State) : Option Nibble := anyKey s.answer.keys s.answer.pick

/-- `zext_8` of a key code (R185: the upper 4 bits of Vx become 0). -/
def byteOfKey (k : Nibble) : Byte := k.setWidth 8

end Sys2Proof.Machine
end

