-- ==== Sys2Proof/Machine/Flags.lean ====
section
/-! DEFINITION. The six values VF is written with as a flag (R21), and the order in which flag and result are
written (R130). -/

namespace Sys2Proof.Machine

/-- 8XY4: the carry out of bit 7 (R137). -/
def carry (a b : Byte) : Bool := decide (a.toNat + b.toNat > 255)

/-- 8XY5 and 8XY7: no borrow in `minuend - subtrahend` (R138, R140, R142). -/
def notBorrow (minuend subtrahend : Byte) : Bool := decide (minuend.toNat ≥ subtrahend.toNat)

/-- 8XY6: the bit shifted out on the right (R139). -/
def shiftedOutRight (b : Byte) : Bool := b.getLsbD 0

/-- 8XYE: the bit shifted out on the left (R141). -/
def shiftedOutLeft (b : Byte) : Bool := b.getLsbD 7

/-- DXYN: a lit pixel met a sprite bit of 1 (R172). -/
def collision (old sprite : Bool) : Bool := old && sprite

/-- The writes of a flag-writing arithmetic instruction: the flag into VF first, the result into V[X] second, so
that with X = F the result stays (R130, 92_eei_decisions.md D8), then `next`. -/
def State.writeFlagged (s : State) (x : Reg) (flag : Bool) (result : Byte) : State :=
  ((s.setFlag flag).setReg x result).advance

end Sys2Proof.Machine
end

