-- ==== Sys2Proof/Machine/Control.lean ====
section
/-! DEFINITION. Control-transfer instructions (41_control_flow.md). A target is written to PC with no check (R118). -/

namespace Sys2Proof.Machine

/-- R110. -/
def execRet (s : State) : Host.Outcome State Fault Refusal :=
  .next (match s.stack with
    | [] => s.halt .stackUnderflow
    | a :: rest => { s with stack := rest, pc := a })

/-- R111. -/
def execJp (nnn : Addr12) (s : State) : Host.Outcome State Fault Refusal :=
  .next (s.jump (addrOfImm nnn))

/-- R112: the overflow check precedes the push; the entry is the address of this instruction plus 2. -/
def execCall (nnn : Addr12) (s : State) : Host.Outcome State Fault Refusal :=
  .next (if s.sp < 16 then (s.push (s.pc + 2#16)).jump (addrOfImm nnn) else s.halt .stackOverflow)

/-- R113. -/
def execSeImm (x : Reg) (nn : Byte) (s : State) : Host.Outcome State Fault Refusal :=
  .next (s.skipIf (s.reg x == nn))

/-- R114. -/
def execSneImm (x : Reg) (nn : Byte) (s : State) : Host.Outcome State Fault Refusal :=
  .next (s.skipIf (s.reg x != nn))

/-- R115. -/
def execSeReg (x y : Reg) (s : State) : Host.Outcome State Fault Refusal :=
  .next (s.skipIf (s.reg x == s.reg y))

/-- R116. -/
def execSneReg (x y : Reg) (s : State) : Host.Outcome State Fault Refusal :=
  .next (s.skipIf (s.reg x != s.reg y))

/-- R117: the offset register is always V0. -/
def execJpV0 (nnn : Addr12) (s : State) : Host.Outcome State Fault Refusal :=
  .next (s.jump (addrOfImm nnn + wordOfByte (s.reg 0x0#4)))

end Sys2Proof.Machine
end

