-- ==== Sys2Proof/Machine/Display.lean ====
section
/-! DEFINITION. Display instructions (44_display.md): the clear, and the sprite blit with XOR, wrap-around per pixel
and collision. -/

namespace Sys2Proof.Machine

/-- What a blit carries from pixel to pixel: the framebuffer, and whether a collision has occurred. -/
structure Blit where
  fb : FrameBuffer
  hit : Bool
  deriving DecidableEq, Repr

/-- One sprite bit at one pixel (R172). -/
def Blit.bit (d : Blit) (px : Fin 64) (py : Fin 32) (sprite : Bool) : Blit :=
  { fb := d.fb.setPixel px py (d.fb.pixel px py ^^ sprite),
    hit := d.hit || collision (d.fb.pixel px py) sprite }

/-- The x-coordinate of column `c` of a sprite at x0: `(x0 + c) mod 64` (R171, R173). -/
def spriteX (x0 : Byte) (c : Nat) : Fin 64 := Fin.ofNat 64 (x0.toNat + c)

/-- The y-coordinate of row `r` of a sprite at y0: `(y0 + r) mod 32` (R171, R173). -/
def spriteY (y0 : Byte) (r : Nat) : Fin 32 := Fin.ofNat 32 (y0.toNat + r)

/-- Columns 0 to n-1 of one sprite row, the most significant bit first (R171). -/
def Blit.columns (x0 : Byte) (py : Fin 32) (row : Byte) (d : Blit) : Nat → Blit
  | 0 => d
  | c + 1 => (Blit.columns x0 py row d c).bit (spriteX x0 c) py (row.getLsbD (7 - c))

/-- The sprite rows in order; `r` is the index of the first of them (R171). -/
def Blit.rows (x0 y0 : Byte) : Blit → Nat → List Byte → Blit
  | d, _, [] => d
  | d, r, row :: rest => Blit.rows x0 y0 (Blit.columns x0 (spriteY y0 r) row d 8) (r + 1) rest

/-- The whole blit of DXYN: origin V[X], V[Y], read before VF is written (R171 e, 92_eei_decisions.md D9), and the
`n` sprite bytes from I on. -/
def State.blit (s : State) (x y : Reg) (n : Nat) : Blit :=
  Blit.rows (s.reg x) (s.reg y) { fb := s.fb, hit := false } 0 (Memory.readBytes s.mem s.i.toNat n)

/-- R170. -/
def execCls (s : State) : Host.Outcome State Fault Refusal :=
  .next (s.setFb FrameBuffer.blank).advance

/-- R171. -/
def execDrw (x y : Reg) (n : Nibble) (s : State) : Host.Outcome State Fault Refusal :=
  .next (s.checked n.toNat
    (((s.setFb (s.blit x y n.toNat).fb).setFlag (s.blit x y n.toNat).hit).advance))

end Sys2Proof.Machine
end

