-- ==== Sys2Proof/Machine/Index.lean ====
section
/-! DEFINITION. Index-register and memory instructions (43_index_memory.md). The range check precedes every effect
(R157). -/

namespace Sys2Proof.Machine

/-- R150. -/
def execLdI (nnn : Addr12) (s : State) : Host.Outcome State Fault Refusal :=
  .next (s.setI (addrOfImm nnn)).advance

/-- R151: modulo 65536, no flag, no range check. -/
def execAddI (x : Reg) (s : State) : Host.Outcome State Fault Refusal :=
  .next (s.setI (s.i + wordOfByte (s.reg x))).advance

/-- R152. -/
def execLdGlyph (x : Reg) (s : State) : Host.Outcome State Fault Refusal :=
  .next (s.setI (glyphAddress (glyphIndex (s.reg x)))).advance

/-- R153. -/
def execBcd (x : Reg) (s : State) : Host.Outcome State Fault Refusal :=
  .next (s.checked 3 (s.storeBytes s.i.toNat (bcdDigits (s.reg x))).advance)

/-- R154: X + 1 registers, X the field (90_conflicts.md C5). -/
def execStore (x : Reg) (s : State) : Host.Outcome State Fault Refusal :=
  .next (s.checked (x.toNat + 1)
    ((s.storeBytes s.i.toNat (s.firstRegs (x.toNat + 1))).setI (s.indexAfterTransfer x)).advance)

/-- R155: X + 1 registers, X the field. -/
def execLoad (x : Reg) (s : State) : Host.Outcome State Fault Refusal :=
  .next (s.checked (x.toNat + 1)
    ((s.loadRegs s.i.toNat (x.toNat + 1)).setI (s.indexAfterTransfer x)).advance)

end Sys2Proof.Machine
end

