-- ==== Sys2Proof/Machine/Io.lean ====
section
/-! DEFINITION. Timer, keypad and random-number instructions (45_timers_input_random.md), and the cycle of a machine
that waits for a key (R94). Each query takes one answer of the environment (R99; log 4). -/

namespace Sys2Proof.Machine

/-- R180. -/
def execLdFromDt (x : Reg) (s : State) : Host.Outcome State Fault Refusal :=
  .next (s.setReg x s.dt).advance

/-- R181. -/
def execLdDt (x : Reg) (s : State) : Host.Outcome State Fault Refusal :=
  .next (s.setDt (s.reg x)).advance

/-- R182. -/
def execLdSt (x : Reg) (s : State) : Host.Outcome State Fault Refusal :=
  .next (s.setSt (s.reg x)).advance

/-- R183. -/
def execSkp (x : Reg) (s : State) : Host.Outcome State Fault Refusal :=
  .next (s.answered.skipIf (keyDown s.answer.keys (keyIndex (s.reg x))))

/-- R184. -/
def execSknp (x : Reg) (s : State) : Host.Outcome State Fault Refusal :=
  .next (s.answered.skipIf (!keyDown s.answer.keys (keyIndex (s.reg x))))

/-- R185, the cycle that fetches the instruction: a reported key completes it at once, else MODE becomes
AwaitingKey with PC still at this FX0A. -/
def execLdKey (x : Reg) (s : State) : Host.Outcome State Fault Refusal :=
  .next (match s.reportedKey with
    | some k => (s.answered.setReg x (byteOfKey k)).advance
    | none => { s.answered with mode := .awaitingKey x })

/-- R186. -/
def execRnd (x : Reg) (nn : Byte) (s : State) : Host.Outcome State Fault Refusal :=
  .next (s.answered.setReg x (s.answer.rand &&& nn)).advance

/-- R94, every later cycle of an FX0A: nothing is fetched; a reported key ends the wait. -/
def State.awaitStep (s : State) (x : Reg) : State :=
  match s.reportedKey with
  | some k => { (s.answered.setReg x (byteOfKey k)).advance with mode := .running }
  | none => s.answered

end Sys2Proof.Machine
end

