-- ==== Sys2Proof/Machine/Cycle.lean ====
section
/-! DEFINITION. The execution cycle (R91) and the whole tick (R96). -/

namespace Sys2Proof.Machine

/-- One cycle (R91): a no-op when halted (R95), a poll when a key is awaited (R94), else fetch, decode and execute.
The checks stand in the order of R206. -/
def cycle (s : State) : Host.Outcome State Fault Refusal :=
  match s.mode with
  | .halted _ => .next s
  | .awaitingKey x => .next (s.awaitStep x)
  | .running =>
    if s.pc.toNat > 0xFFE then .next (s.halt .addressOutOfRange)
    else match decode s.fetchWord with
      | .op i => exec i s
      | .unsupported => .next (s.halt .unsupportedOpcode)
      | .truncated => .next (s.halt .unsupportedOpcode)

/-- `repeat n times: cycle()`. -/
def cycles : Nat → State → Host.Outcome State Fault Refusal
  | 0, s => .next s
  | n + 1, s =>
    match cycle s with
    | .next t => cycles n t
    | .fault r => .fault r
    | .refused r => .refused r

/-- `tick(BATCH)` as one operation (R96): BATCH cycles, then one decay of both timers. -/
def tick (batch : Nat) (s : State) : Host.Outcome State Fault Refusal :=
  match cycles batch s with
  | .next t => .next t.decayTimers
  | .fault r => .fault r
  | .refused r => .refused r

/-- The host calls `tick` once for each batch size in the list. -/
def ticks : List Nat → State → Host.Outcome State Fault Refusal
  | [], s => .next s
  | batch :: rest, s =>
    match tick batch s with
    | .next t => ticks rest t
    | .fault r => .fault r
    | .refused r => .refused r

end Sys2Proof.Machine
end

