-- ==== Sys2Proof/Machine/Step.lean ====
section
/-! DEFINITION. One step of the machine as the host drives it (R33, R96): between ticks the host calls `tick(BATCH)`;
inside a tick each step is one cycle; when the cycles are used up the step is the decay. -/

namespace Sys2Proof.Machine

/-- One step (log 5). -/
def step (s : State) : Host.Outcome State Fault Refusal :=
  match s.tick with
  | none => .next s.beginTick
  | some 0 => .next s.endTick
  | some (n + 1) => cycle { s with tick := some n }

/-- Where `withFetchWord` stores: at PC, or at the reset PC when PC cannot be fetched from (R57). -/
def State.fetchablePc (s : State) : Word := if s.pc.toNat > 0xFFE then 0x200#16 else s.pc

/-- The state with an instruction stored where the next step fetches, inside a tick with a cycle left, and running
(log 6). -/
def State.withFetchWord (s : State) (nbits w : Nat) : State :=
  { s with
    pc := s.fetchablePc
    mem := Memory.writeBytes s.mem s.fetchablePc.toNat (bytesOfWord (tableWord nbits w))
    mode := .running
    tick := match s.tick with
      | some (n + 1) => some (n + 1)
      | some 0 => some 1
      | none => some 1 }

end Sys2Proof.Machine
end

