-- ==== Sys2Proof/Machine/Observe.lean ====
section
/-! DEFINITION. What the host reads (R32, R200, R209). No read changes the state. -/

namespace Sys2Proof.Machine

/-- The host reads only between ticks (R32, R98). -/
def State.betweenTicks (s : State) : Bool := s.tick.isNone

/-- The status port: MODE, the halt reason included (R32 b). -/
def State.status (s : State) : Mode := s.mode

/-- The framebuffer port (R32 a). -/
def State.pixel (s : State) (x : Fin 64) (y : Fin 32) : Bool := s.fb.pixel x y

/-- The sound-timer value (R32 d). -/
def State.sound (s : State) : Byte := s.st

/-- The reference number of a halt reason (R200, 92_eei_decisions.md D29). -/
def HaltReason.code : HaltReason → Nat
  | .unsupportedOpcode => 1
  | .stackOverflow => 2
  | .stackUnderflow => 3
  | .addressOutOfRange => 4

/-- The class the host derives from the reason: fatal, or recoverable, which does not mean resumable (R200, R209). -/
def HaltReason.fatal : HaltReason → Bool
  | .unsupportedOpcode => false
  | .stackOverflow => true
  | .stackUnderflow => true
  | .addressOutOfRange => true

end Sys2Proof.Machine
end

