-- ==== Sys2Proof/Machine/Reset.lean ====
section
/-! DEFINITION. The host's `reset(image)` (R33, R230, R231, R234): the construction of a machine, and the only way
out of Halted (R208). It is no step: a run starts from what it answers (log 6). -/

namespace Sys2Proof.Machine

/-- `reset(image)` with the parameters of R6: the glyph table at 0x000, the image at 0x200, zero elsewhere, every
other element as R34 says. An image that does not fit is refused and no machine results (R234). -/
def State.construct (config : Config) (glyphs : Vector Byte 80) (image : List Byte) :
    Host.Outcome State Fault Refusal :=
  if imageFits image then
    .next { State.reset with
      mem := Memory.writeBytes (Memory.writeBytes [] 0x000 glyphs.toList) 0x200 image
      config := config }
  else .refused .imageTooLong

end Sys2Proof.Machine
end

