-- ==== Sys2Proof/Safety.lean ====
section
/-! DEFINITION. The terms claims are stated in: the invariants of a run, what an instruction may write, when it halts,
and what two states share. -/

namespace Sys2Proof.Machine

/-! ## Invariants -/

/-- Memory keeps its canonical form, addresses below 4096 (R50). -/
def State.memoryCanonical (s : State) : Prop := Memory.wf s.mem

/-- The control state stays within the bounds the spec derives: at most 16 entries on the stack (R24), each the
address after a call that could be fetched, PC at most 0x10FE (R23), and a machine that awaits a key standing at an
address that can be fetched from (R28). -/
def State.controlBounded (s : State) : Prop :=
  s.stack.length ≤ 16 ∧ (∀ a ∈ s.stack, a.toNat ≤ 0x1000) ∧ s.pc.toNat ≤ 0x10FE ∧
    ∀ x, s.mode = .awaitingKey x → s.pc.toNat ≤ 0xFFE

/-- While a key is awaited PC stands at the FX0A in progress, whose X is the register that waits (R28, R94). -/
def State.keyWaitAtFx0a (s : State) : Prop :=
  ∀ x, s.mode = .awaitingKey x → s.pc.toNat ≤ 0xFFE ∧ decode s.fetchWord = .op (.ldKey x)

end Sys2Proof.Machine

namespace Sys2Proof

open Machine

/-! ## What an instruction may write, and when it halts -/

/-- The six instructions that write VF as a flag (R21). -/
def Instr.writesFlag : Instr → Bool
  | .addReg _ _ | .sub _ _ | .shr _ _ | .subn _ _ | .shl _ _ | .drw _ _ _ => true
  | .cls | .ret | .jp _ | .call _ | .seImm _ _ | .sneImm _ _ | .seReg _ _ | .ldImm _ _ | .addImm _ _
  | .ldReg _ _ | .orReg _ _ | .andReg _ _ | .xorReg _ _ | .sneReg _ _ | .ldI _ | .jpV0 _ | .rnd _ _
  | .skp _ | .sknp _ | .ldFromDt _ | .ldKey _ | .ldDt _ | .ldSt _ | .addI _ | .ldGlyph _ | .bcd _
  | .store _ | .load _ => false

/-- The general registers an instruction names as its destination: V[X], or V0..V[X] for FX65. -/
def Instr.isDestination : Instr → Reg → Bool
  | .ldImm x _, r | .addImm x _, r | .ldReg x _, r | .orReg x _, r | .andReg x _, r | .xorReg x _, r
  | .addReg x _, r | .sub x _, r | .shr x _, r | .subn x _, r | .shl x _, r | .rnd x _, r
  | .ldFromDt x, r | .ldKey x, r => r == x
  | .load x, r => decide (r.toNat ≤ x.toNat)
  | .cls, _ | .ret, _ | .jp _, _ | .call _, _ | .seImm _ _, _ | .sneImm _ _, _ | .seReg _ _, _
  | .sneReg _ _, _ | .ldI _, _ | .jpV0 _, _ | .drw _ _ _, _ | .skp _, _ | .sknp _, _ | .ldDt _, _
  | .ldSt _, _ | .addI _, _ | .ldGlyph _, _ | .bcd _, _ | .store _, _ => false

/-- How many bytes an instruction stores from I on (R50, R59): three for FX33, X + 1 for FX55. -/
def Instr.bytesStored : Instr → Nat
  | .bcd _ => 3
  | .store x => x.toNat + 1
  | .cls | .ret | .jp _ | .call _ | .seImm _ _ | .sneImm _ _ | .seReg _ _ | .ldImm _ _ | .addImm _ _
  | .ldReg _ _ | .orReg _ _ | .andReg _ _ | .xorReg _ _ | .addReg _ _ | .sub _ _ | .shr _ _ | .subn _ _
  | .shl _ _ | .sneReg _ _ | .ldI _ | .jpV0 _ | .rnd _ _ | .drw _ _ _ | .skp _ | .sknp _ | .ldFromDt _
  | .ldKey _ | .ldDt _ | .ldSt _ | .addI _ | .ldGlyph _ | .load _ => 0

/-- When an instruction halts, and with which reason (R57, R200). -/
def Instr.haltsWith (s : State) : Instr → Option HaltReason
  | .call _ => if s.stack.length ≥ 16 then some .stackOverflow else none
  | .ret => if s.stack.length = 0 then some .stackUnderflow else none
  | .drw _ _ n => if n.toNat > 0 ∧ s.i.toNat + n.toNat - 1 > 0xFFF then some .addressOutOfRange else none
  | .bcd _ => if s.i.toNat + 2 > 0xFFF then some .addressOutOfRange else none
  | .store x => if s.i.toNat + x.toNat > 0xFFF then some .addressOutOfRange else none
  | .load x => if s.i.toNat + x.toNat > 0xFFF then some .addressOutOfRange else none
  | .cls | .jp _ | .seImm _ _ | .sneImm _ _ | .seReg _ _ | .ldImm _ _ | .addImm _ _ | .ldReg _ _
  | .orReg _ _ | .andReg _ _ | .xorReg _ _ | .addReg _ _ | .sub _ _ | .shr _ _ | .subn _ _ | .shl _ _
  | .sneReg _ _ | .ldI _ | .jpV0 _ | .rnd _ _ | .skp _ | .sknp _ | .ldFromDt _ | .ldKey _ | .ldDt _
  | .ldSt _ | .addI _ | .ldGlyph _ => none

end Sys2Proof

namespace Sys2Proof.Machine

/-! ## What two states share -/

/-- Nothing but PC differs, and every byte of memory reads as before. -/
def State.onlyPc (s t : State) : Prop := t = { s with pc := t.pc } ∧ ∀ a, t.byte a = s.byte a

/-- Nothing but the general registers and PC differs, and every byte of memory reads as before. -/
def State.onlyRegsPc (s t : State) : Prop := t = { s with v := t.v, pc := t.pc } ∧ ∀ a, t.byte a = s.byte a

/-- Nothing but I and PC differs, and every byte of memory reads as before. -/
def State.onlyIndexPc (s t : State) : Prop := t = { s with i := t.i, pc := t.pc } ∧ ∀ a, t.byte a = s.byte a

/-- Nothing but the general registers and PC differs, one answer of the environment is used up, and every byte of
memory reads as before. -/
def State.onlyRegsPcQuery (s t : State) : Prop :=
  t = { s with v := t.v, pc := t.pc, env := s.env.tail, queries := s.queries + 1 } ∧ ∀ a, t.byte a = s.byte a

/-- Nothing but the `n` bytes of memory from I on, I itself and PC differs. -/
def State.onlyStoredIndexPc (s t : State) (n : Nat) : Prop :=
  t = { s with mem := t.mem, i := t.i, pc := t.pc } ∧
    ∀ a, ¬(s.i.toNat ≤ a ∧ a < s.i.toNat + n) → t.byte a = s.byte a

/-! ## The sprite as a picture (R171, R173) -/

/-- The sprite bit that DXYN draws at pixel (px, py), for a sprite of `n` rows at I and its origin at (x0, y0):
row `(py - y0) mod 32` and column `(px - x0) mod 64`, where the sprite has them, and no bit elsewhere. -/
def State.spriteBit (s : State) (x0 y0 : Byte) (n : Nat) (px : Fin 64) (py : Fin 32) : Bool :=
  let r := (py.val + 256 - y0.toNat) % 32
  let c := (px.val + 256 - x0.toNat) % 64
  decide (r < n) && decide (c < 8) && (s.byte (s.i.toNat + r)).getLsbD (7 - c)

end Sys2Proof.Machine
end

