-- ==== Sys2Proof/Certificates/Slice0/Obligations.lean ====
section
/-! DEFINITION. The statements for the provers, in the order of OBLIGATIONS.json. A docstring names the rule a statement
formalises; where a clause rests on a choice the spec marks as its own (92_eei_decisions.md) or on a log entry, the
docstring names it. Every statement about a state holds for every value of the free fields of the model. -/

open Sys2Proof Sys2Proof.Machine

/-! ## Encoding (30_encoding.md) -/

/-- Words of 95_test_vectors.md 2.1 and of R74, written out, decode to what they stand for; words of R78 are Unsupported.
Exact matching of literal digits is the spec's choice (D7). -/
def Obligations.SampleWordsDecode : Prop :=
  decode 0xD7A5#16 = .op (.drw 0x7#4 0xA#4 0x5#4) ∧
  decode 0x8AB4#16 = .op (.addReg 0xA#4 0xB#4) ∧
  decode 0xF965#16 = .op (.load 0x9#4) ∧
  decode 0x3C7F#16 = .op (.seImm 0xC#4 0x7F#8) ∧
  decode 0x2ABC#16 = .op (.call 0xABC#12) ∧
  decode 0x00EE#16 = .op .ret ∧
  decode 0x8F0E#16 = .op (.shl 0xF#4 0x0#4) ∧
  decode 0xE5A1#16 = .op (.sknp 0x5#4) ∧
  decode 0xF30A#16 = .op (.ldKey 0x3#4) ∧
  decode 0x0000#16 = .unsupported ∧ decode 0x01E0#16 = .unsupported ∧ decode 0x5121#16 = .unsupported ∧
  decode 0x812F#16 = .unsupported ∧ decode 0xE1A2#16 = .unsupported ∧ decode 0xF1FF#16 = .unsupported

/-- Decode and encode agree, for every instruction with every operand, as words and as bytes in memory order
(R71, R73, R74). The byte order is the spec's choice (D1). -/
def Obligations.DecodeOfEncode : Prop :=
  ∀ i : Instr, decode (encode i) = .op i ∧ ∀ rest : List Byte, decodeBytes (encodeBytes i ++ rest) = (.op i, rest)

/-- Each word has one meaning: a word that decodes to an instruction is that instruction's encoding, the ignored Y of
the shifts included (R76, R77). -/
def Obligations.EncodeOfDecode : Prop :=
  ∀ (w : Word) (i : Instr), decode w = .op i → encode i = w

/-- A word decodes to an operation iff a row of the opcode table selects it; the row bears the operation's mnemonic;
every other word is Unsupported; the table has 34 rows and no word selects two (R73, R74, R77, R78). Exact matching
is the spec's choice (D7). -/
def Obligations.DecodesIffARowSelects : Prop :=
  (∀ w : Word, (∃ i, decode w = .op i) ↔ ∃ r ∈ opcodeTable, w &&& r.mask = r.code) ∧
  (∀ (w : Word) (i : Instr), decode w = .op i →
    ∃ r ∈ opcodeTable, r.mnemonic = i.mnemonic ∧ w &&& r.mask = r.code) ∧
  (∀ w : Word, decode w = .unsupported ∨ ∃ i, decode w = .op i) ∧
  opcodeTable.length = 34 ∧
  ∀ w : Word, opcodeTable.Pairwise fun r q => ¬(w &&& r.mask = r.code ∧ w &&& q.mask = q.code)

/-! ## The cycle and the tick (40_cycle_and_tick.md) -/

/-- A step inside a tick with cycles left is one cycle, with one of them used up (R96; log 5); running, at an address that
can be fetched from, it is `exec` of the instruction that the two bytes at PC decode to, the byte at PC high (R55,
R91). The byte order is the spec's choice (D1). -/
def Obligations.StepRunsDecodedInstruction : Prop :=
  ∀ (s : State) (n : Nat), s.tick = some (n + 1) →
    step s = cycle { s with tick := some n } ∧
    ∀ i : Instr, s.mode = .running → s.pc.toNat ≤ 0xFFE →
      decode (BitVec.ofNat 16 ((s.byte s.pc.toNat).toNat * 256 + (s.byte (s.pc.toNat + 1)).toNat)) = .op i →
      step s = exec i { s with tick := some n }

/-- R201: an Unsupported word halts the machine in the cycle that fetched it, after decode and before any effect; the
class of the halt is not the fatal one; the word of zero-filled memory is such a word. -/
def Obligations.UnsupportedWordHalts : Prop :=
  (∀ s : State, s.mode = .running → s.pc.toNat ≤ 0xFFE → decode s.fetchWord = .unsupported →
    cycle s = .next { s with mode := .halted .unsupportedOpcode }) ∧
  HaltReason.unsupportedOpcode.fatal = false ∧ decode 0x0000#16 = .unsupported

/-- A fetch beyond 0xFFF halts the machine before any byte is read or decoded, PC at the bad address (R57, R206).
The halt and the point where it is detected are the spec's choices (D2, D5, D10). -/
def Obligations.FetchBeyondMemoryHalts : Prop :=
  ∀ s : State, s.mode = .running → s.pc.toNat > 0xFFE →
    cycle s = .next { s with mode := .halted .addressOutOfRange }

/-- R95: in Halted a cycle changes nothing, and asks the environment nothing. -/
def Obligations.HaltedCycleIsNoOp : Prop :=
  ∀ (s : State) (r : HaltReason), s.mode = .halted r → cycle s = .next s

/-- The cycle of a machine that waits for a key (R94): a reported key is stored, PC advances and the machine runs;
otherwise nothing changes but that the environment was asked. The explicit mode and the vector KEYS are the spec's
choices (D13, D14); the answer used up is the model's (log 4). -/
def Obligations.KeyWaitCycle : Prop :=
  ∀ (s : State) (x : Reg), s.mode = .awaitingKey x →
    (∀ k, anyKey s.answer.keys s.answer.pick = some k → ∃ t, cycle s = .next t ∧
      (∀ r, t.reg r = if r = x then BitVec.ofNat 8 k.toNat else s.reg r) ∧
      t.pc = s.pc + 2#16 ∧ t.mode = .running ∧
      t = { s with v := t.v, pc := t.pc, mode := t.mode, env := s.env.tail, queries := s.queries + 1 }) ∧
    (anyKey s.answer.keys s.answer.pick = none →
      cycle s = .next { s with env := s.env.tail, queries := s.queries + 1 })

/-- The two boundaries of a tick (R96, R97; log 5). The host's call fixes BATCH, any number the environment gives, and
uses up one of its answers (log 4); the end lowers each timer by one, floored at 0, whatever the mode. Decay in every
mode and a free BATCH are the spec's choices (D16, D17). -/
def Obligations.TickBoundaries : Prop :=
  (∀ s : State, s.tick = none →
    step s = .next { s with tick := some s.answer.batch, env := s.env.tail, queries := s.queries + 1 }) ∧
  (∀ s : State, s.tick = some 0 → ∃ t, step s = .next t ∧
    t.dt.toNat = s.dt.toNat - 1 ∧ t.st.toNat = s.st.toNat - 1 ∧
    t = { s with tick := none, dt := t.dt, st := t.st })

/-- The machine that is stepped refines the tick of R96: from a state between ticks, the steps of one whole tick, the
call and the decay included, answer what `tick(BATCH)` answers. The splitting into steps (log 5) and the answer of the
environment that the call uses up (log 4) are the model's choices; a free BATCH is the spec's (D16). -/
def Obligations.StepsOfATickAreTheTick : Prop :=
  ∀ s : State, s.tick = none →
    Host.Core.run Sys2Proof.core (s.answer.batch + 2) s =
      tick s.answer.batch { s with env := s.env.tail, queries := s.queries + 1 }

/-- Halted is sticky over any run (R207, R208): every step answers a next state, and MODE, the registers, I, PC, the
stack, the framebuffer and memory never change again; the timers only go down. That only a new construction leaves
Halted and that timers decay there are the spec's choices (D17, D23). -/
def Obligations.HaltedIsSticky : Prop :=
  ∀ (k : Nat) (s : State) (r : HaltReason), s.mode = .halted r →
    ∃ t : State, Host.Core.run Sys2Proof.core k s = .next t ∧
      t = { s with dt := t.dt, st := t.st, tick := t.tick, env := t.env, queries := t.queries } ∧
      t.dt.toNat ≤ s.dt.toNat ∧ t.st.toNat ≤ s.st.toNat

/-- Timer decay over any sequence of ticks in which no instruction runs, because the machine is halted or every batch is
0: after k ticks each timer is lower by k, floored at 0 (R97). Decay while halted is the spec's choice (D17). -/
def Obligations.TimersFallByOnePerTick : Prop :=
  ∀ (batches : List Nat) (s : State), ((∃ r, s.mode = .halted r) ∨ ∀ b ∈ batches, b = 0) →
    ∃ t, ticks batches s = .next t ∧
      t.dt.toNat = s.dt.toNat - batches.length ∧ t.st.toNat = s.st.toNat - batches.length ∧
      t = { s with dt := t.dt, st := t.st }

/-- Every step, and every instruction in every state, answers a next state: nothing is refused and nothing faults
(R91, R207). -/
def Obligations.EveryStepAnswersNext : Prop :=
  (∀ (i : Instr) (s : State), ∃ t, exec i s = .next t) ∧ ∀ s : State, ∃ t, step s = .next t

/-! ## Invariants -/

/-- Every step keeps memory in its canonical form, with every address below 4096 (R50, R57; log 9). -/
def Obligations.StepKeepsMemoryCanonical : Prop :=
  ∀ s t : State, s.memoryCanonical → step s = .next t → t.memoryCanonical

/-- Every step keeps the bounds of the control state: at most 16 stack entries (R24), each at most 0x1000, and PC at
most 0x10FE. The PC bound is the spec's own inference (R23, "[derived: ...]"). -/
def Obligations.StepKeepsControlBounded : Prop :=
  ∀ s t : State, s.controlBounded → step s = .next t → t.controlBounded

/-- Every step keeps it true that a waiting machine stands at the FX0A in progress, with its own X (R28, R94). -/
def Obligations.StepKeepsKeyWaitAtFx0a : Prop :=
  ∀ s t : State, s.keyWaitAtFx0a → step s = .next t → t.keyWaitAtFx0a

/-- The state after reset meets the three invariants. -/
def Obligations.ResetMeetsInvariants : Prop :=
  State.reset.memoryCanonical ∧ State.reset.controlBounded ∧ State.reset.keyWaitAtFx0a

/-- The explicit waiting mode is equivalent to executing the FX0A again (R94, 90_conflicts.md C10, D14): under the
invariant, a waiting cycle does what the cycle of a running machine at the same PC does. -/
def Obligations.KeyWaitCycleEqualsRefetch : Prop :=
  ∀ (s : State) (x : Reg), s.keyWaitAtFx0a → s.mode = .awaitingKey x →
    cycle s = cycle { s with mode := .running }

/-! ## Halts (60_exceptions.md) -/

/-- An instruction halts exactly when R57 and R200 say so, with the reason they give. The range halt is the spec's
choice (D2). -/
def Obligations.HaltConditionsExact : Prop :=
  ∀ (i : Instr) (s : State) (r : HaltReason), s.mode = .running →
    ((∃ t, exec i s = .next t ∧ t.mode = .halted r) ↔ i.haltsWith s = some r)

/-- Halt entry is precise (R207; the spec's choice, D10): an instruction that halts a running machine changes MODE and
nothing else, and so does a step, which uses up one cycle of the tick besides (log 5). -/
def Obligations.HaltEntryIsPrecise : Prop :=
  (∀ (i : Instr) (s t : State) (r : HaltReason), s.mode = .running → exec i s = .next t → t.mode = .halted r →
    t = { s with mode := .halted r }) ∧
  ∀ (s t : State) (n : Nat) (r : HaltReason), s.tick = some (n + 1) → s.mode = .running →
    step s = .next t → t.mode = .halted r → t = { s with tick := some n, mode := .halted r }

/-! ## Frames over all instructions -/

/-- R20, R21: an instruction changes no general register but its destinations, and VF if it is one of the six that write
it as a flag; each of those six leaves 0 or 1 in VF when it completes and VF is not its destination. What VF holds
when it is the destination is the spec's choice (D8), and is not claimed here. -/
def Obligations.RegistersWritten : Prop :=
  ∀ (i : Instr) (s t : State), exec i s = .next t →
    (∀ q, i.isDestination q = false → (q ≠ vf ∨ i.writesFlag = false) → t.reg q = s.reg q) ∧
    (i.writesFlag = true → i.haltsWith s = none → i.isDestination vf = false → t.reg vf = 0#8 ∨ t.reg vf = 1#8)

/-- R50, R59: only FX33 and FX55 change memory, and only the 3 or X + 1 bytes from I on, I read before the instruction. -/
def Obligations.MemoryWritten : Prop :=
  ∀ (i : Instr) (s t : State), exec i s = .next t →
    ∀ a, ¬(s.i.toNat ≤ a ∧ a < s.i.toNat + i.bytesStored) → t.byte a = s.byte a

/-- Which instructions change each other element of the state (R22, R24 to R28, R99): the framebuffer, the stack, DT, ST,
I, MODE and the environment's answers (log 4); none changes the tick in progress or the configuration (logs 3, 5). -/
def Obligations.SpecialStateWritten : Prop :=
  ∀ (i : Instr) (s t : State), exec i s = .next t →
    (t.fb ≠ s.fb → i = .cls ∨ ∃ x y n, i = .drw x y n) ∧
    (t.stack ≠ s.stack → i = .ret ∨ ∃ nnn, i = .call nnn) ∧
    (t.dt ≠ s.dt → ∃ x, i = .ldDt x) ∧
    (t.st ≠ s.st → ∃ x, i = .ldSt x) ∧
    (t.i ≠ s.i → (∃ nnn, i = .ldI nnn) ∨ (∃ x, i = .addI x ∨ i = .ldGlyph x) ∨
      (s.config.quirkLoadStoreInc = true ∧ ∃ x, i = .store x ∨ i = .load x)) ∧
    (t.mode ≠ s.mode → (∃ x, i = .ldKey x ∧ t.mode = .awaitingKey x) ∨
      ∃ r, i.haltsWith s = some r ∧ t.mode = .halted r) ∧
    (t.queries ≠ s.queries ∨ t.env ≠ s.env →
      ∃ x, i = .skp x ∨ i = .sknp x ∨ i = .ldKey x ∨ ∃ nn, i = .rnd x nn) ∧
    t.tick = s.tick ∧ t.config = s.config

/-! ## Control transfer (41_control_flow.md) -/

/-- R111. -/
def Obligations.JumpSetsPc : Prop :=
  ∀ (nnn : Addr12) (s : State), decode (0x1#4 ++ nnn) = .op (.jp nnn) ∧
    ∃ t, exec (.jp nnn) s = .next t ∧ t.pc.toNat = nnn.toNat ∧ s.onlyPc t

/-- CALL pushes the address of the next instruction and jumps (R112). What an entry holds is the spec's choice (D6). -/
def Obligations.CallPushesReturnAddress : Prop :=
  ∀ (nnn : Addr12) (s : State), decode (0x2#4 ++ nnn) = .op (.call nnn) ∧
    (s.stack.length < 16 → ∃ t, exec (.call nnn) s = .next t ∧
      t.stack = (s.pc + 2#16) :: s.stack ∧ t.pc.toNat = nnn.toNat ∧
      t = { s with stack := t.stack, pc := t.pc } ∧ ∀ a, t.byte a = s.byte a)

/-- RET pops the last entry into PC, with no further advance (R110; the spec's choice, D6). -/
def Obligations.ReturnPopsIntoPc : Prop :=
  decode 0x00EE#16 = .op .ret ∧
  ∀ (a : Word) (rest : List Word) (s : State), s.stack = a :: rest →
    ∃ t, exec .ret s = .next t ∧ t.pc = a ∧ t.stack = rest ∧
      t = { s with stack := t.stack, pc := t.pc } ∧ ∀ b, t.byte b = s.byte b

/-- R202 and R203: calls succeed while fewer than 16 entries are held; the next one, and a return with none, halt the
machine with nothing pushed or popped and PC unchanged; both halts are of the fatal class. -/
def Obligations.StackBoundsHalt : Prop :=
  (∀ (nnn : Addr12) (s : State), s.stack.length < 16 →
    ∃ t, exec (.call nnn) s = .next t ∧ t.mode = s.mode ∧ t.stack.length = s.stack.length + 1) ∧
  (∀ (nnn : Addr12) (s : State), s.stack.length = 16 →
    ∃ t, exec (.call nnn) s = .next t ∧ t.mode = .halted .stackOverflow ∧ t.stack = s.stack ∧ t.pc = s.pc) ∧
  (∀ s : State, s.stack = [] →
    ∃ t, exec .ret s = .next t ∧ t.mode = .halted .stackUnderflow ∧ t.stack = [] ∧ t.pc = s.pc) ∧
  HaltReason.stackOverflow.fatal = true ∧ HaltReason.stackUnderflow.fatal = true

/-- A return that meets the stack its call left resumes at the instruction after the call, with the stack as before it
(R110, R112; D6). -/
def Obligations.CallThenReturnResumes : Prop :=
  ∀ (nnn : Addr12) (s t : State), s.stack.length < 16 → exec (.call nnn) s = .next t →
    ∀ u : State, u.stack = t.stack → ∃ w, exec .ret u = .next w ∧ w.pc = s.pc + 2#16 ∧ w.stack = s.stack

/-- R113 and R114. -/
def Obligations.SkipOnImmediate : Prop :=
  ∀ (x : Reg) (nn : Byte) (s : State),
    decode (0x3#4 ++ x ++ nn) = .op (.seImm x nn) ∧ decode (0x4#4 ++ x ++ nn) = .op (.sneImm x nn) ∧
    (∃ t, exec (.seImm x nn) s = .next t ∧
      t.pc = (if s.reg x = nn then s.pc + 4#16 else s.pc + 2#16) ∧ s.onlyPc t) ∧
    (∃ t, exec (.sneImm x nn) s = .next t ∧
      t.pc = (if s.reg x = nn then s.pc + 2#16 else s.pc + 4#16) ∧ s.onlyPc t)

/-- The skips on two registers (R115, R116). That a last digit other than 0 is Unsupported is the spec's choice (D7). -/
def Obligations.SkipOnRegisters : Prop :=
  ∀ (x y : Reg) (s : State),
    decode (0x5#4 ++ x ++ y ++ 0x0#4) = .op (.seReg x y) ∧ decode (0x9#4 ++ x ++ y ++ 0x0#4) = .op (.sneReg x y) ∧
    (∀ n : Nibble, n ≠ 0#4 → decode (0x5#4 ++ x ++ y ++ n) = .unsupported ∧
      decode (0x9#4 ++ x ++ y ++ n) = .unsupported) ∧
    (∃ t, exec (.seReg x y) s = .next t ∧
      t.pc = (if s.reg x = s.reg y then s.pc + 4#16 else s.pc + 2#16) ∧ s.onlyPc t) ∧
    (∃ t, exec (.sneReg x y) s = .next t ∧
      t.pc = (if s.reg x = s.reg y then s.pc + 2#16 else s.pc + 4#16) ∧ s.onlyPc t)

/-- JP V0 adds V0 to the immediate with no wrap at 12 bits and no check (R117). That the target is checked only at the
next fetch is the spec's choice (D5). -/
def Obligations.JumpWithOffset : Prop :=
  ∀ (nnn : Addr12) (s : State), decode (0xB#4 ++ nnn) = .op (.jpV0 nnn) ∧
    ∃ t, exec (.jpV0 nnn) s = .next t ∧ t.pc.toNat = nnn.toNat + (s.reg 0x0#4).toNat ∧ s.onlyPc t

/-! ## Loads, arithmetic, logic and shifts (42_alu.md) -/

/-- R131 and R133. -/
def Obligations.LoadImmediateAndCopy : Prop :=
  ∀ (x y : Reg) (nn : Byte) (s : State),
    decode (0x6#4 ++ x ++ nn) = .op (.ldImm x nn) ∧ decode (0x8#4 ++ x ++ y ++ 0x0#4) = .op (.ldReg x y) ∧
    (∃ t, exec (.ldImm x nn) s = .next t ∧ (∀ r, t.reg r = if r = x then nn else s.reg r) ∧
      t.pc = s.pc + 2#16 ∧ s.onlyRegsPc t) ∧
    (∃ t, exec (.ldReg x y) s = .next t ∧ (∀ r, t.reg r = if r = x then s.reg y else s.reg r) ∧
      t.pc = s.pc + 2#16 ∧ s.onlyRegsPc t)

/-- R132: modulo 256 and no flag. -/
def Obligations.AddImmediateNoFlag : Prop :=
  ∀ (x : Reg) (nn : Byte) (s : State), decode (0x7#4 ++ x ++ nn) = .op (.addImm x nn) ∧
    ∃ t, exec (.addImm x nn) s = .next t ∧
      (t.reg x).toNat = ((s.reg x).toNat + nn.toNat) % 256 ∧ (∀ r, r ≠ x → t.reg r = s.reg r) ∧
      t.pc = s.pc + 2#16 ∧ s.onlyRegsPc t

/-- R134, R135 and R136: bit by bit, and VF left alone. -/
def Obligations.LogicBitByBit : Prop :=
  ∀ (x y : Reg) (s : State),
    decode (0x8#4 ++ x ++ y ++ 0x1#4) = .op (.orReg x y) ∧ decode (0x8#4 ++ x ++ y ++ 0x2#4) = .op (.andReg x y) ∧
    decode (0x8#4 ++ x ++ y ++ 0x3#4) = .op (.xorReg x y) ∧
    (∃ t, exec (.orReg x y) s = .next t ∧
      (∀ k, (t.reg x).getLsbD k = ((s.reg x).getLsbD k || (s.reg y).getLsbD k)) ∧
      (∀ r, r ≠ x → t.reg r = s.reg r) ∧ t.pc = s.pc + 2#16 ∧ s.onlyRegsPc t) ∧
    (∃ t, exec (.andReg x y) s = .next t ∧
      (∀ k, (t.reg x).getLsbD k = ((s.reg x).getLsbD k && (s.reg y).getLsbD k)) ∧
      (∀ r, r ≠ x → t.reg r = s.reg r) ∧ t.pc = s.pc + 2#16 ∧ s.onlyRegsPc t) ∧
    (∃ t, exec (.xorReg x y) s = .next t ∧
      (∀ k, (t.reg x).getLsbD k = ((s.reg x).getLsbD k ^^ (s.reg y).getLsbD k)) ∧
      (∀ r, r ≠ x → t.reg r = s.reg r) ∧ t.pc = s.pc + 2#16 ∧ s.onlyRegsPc t)

/-- ADD Vx, Vy: the sum modulo 256, and the carry in VF (R137). With X = F the result stays; that order is the spec's
choice (D8). -/
def Obligations.AddWithCarry : Prop :=
  ∀ (x y : Reg) (s : State), decode (0x8#4 ++ x ++ y ++ 0x4#4) = .op (.addReg x y) ∧
    ∃ t, exec (.addReg x y) s = .next t ∧
      (∀ r, t.reg r = if r = x then BitVec.ofNat 8 (((s.reg x).toNat + (s.reg y).toNat) % 256)
        else if r = vf then (if (s.reg x).toNat + (s.reg y).toNat > 255 then 1#8 else 0#8) else s.reg r) ∧
      t.pc = s.pc + 2#16 ∧ s.onlyRegsPc t

/-- SUB and SUBN: the difference modulo 256 of the integers, and not-borrow in VF, 1 when they are equal (R138, R140,
R142). With X = F the result stays; that order is the spec's choice (D8). -/
def Obligations.SubtractWithNotBorrow : Prop :=
  ∀ (x y : Reg) (s : State),
    decode (0x8#4 ++ x ++ y ++ 0x5#4) = .op (.sub x y) ∧ decode (0x8#4 ++ x ++ y ++ 0x7#4) = .op (.subn x y) ∧
    (∃ t, exec (.sub x y) s = .next t ∧
      (∀ r, t.reg r = if r = x then BitVec.ofInt 8 (((s.reg x).toNat - (s.reg y).toNat : Int) % 256)
        else if r = vf then (if (s.reg x).toNat ≥ (s.reg y).toNat then 1#8 else 0#8) else s.reg r) ∧
      t.pc = s.pc + 2#16 ∧ s.onlyRegsPc t) ∧
    (∃ t, exec (.subn x y) s = .next t ∧
      (∀ r, t.reg r = if r = x then BitVec.ofInt 8 (((s.reg y).toNat - (s.reg x).toNat : Int) % 256)
        else if r = vf then (if (s.reg y).toNat ≥ (s.reg x).toNat then 1#8 else 0#8) else s.reg r) ∧
      t.pc = s.pc + 2#16 ∧ s.onlyRegsPc t)

/-- SHR and SHL: one position, a 0 enters, the bit shifted out goes to VF (R139, R141), for both settings of
QUIRK_SHIFT_VY. The quirk's default and the order with X = F are the spec's choices (D8, D18). -/
def Obligations.ShiftByOne : Prop :=
  ∀ (x y : Reg) (s : State) (o : Byte), o = (if s.config.quirkShiftVy then s.reg y else s.reg x) →
    decode (0x8#4 ++ x ++ y ++ 0x6#4) = .op (.shr x y) ∧ decode (0x8#4 ++ x ++ y ++ 0xE#4) = .op (.shl x y) ∧
    (∃ t, exec (.shr x y) s = .next t ∧
      (∀ r, t.reg r = if r = x then BitVec.ofNat 8 (o.toNat / 2)
        else if r = vf then BitVec.ofNat 8 (o.toNat % 2) else s.reg r) ∧
      t.pc = s.pc + 2#16 ∧ s.onlyRegsPc t) ∧
    (∃ t, exec (.shl x y) s = .next t ∧
      (∀ r, t.reg r = if r = x then BitVec.ofNat 8 (o.toNat * 2 % 256)
        else if r = vf then BitVec.ofNat 8 (o.toNat / 128) else s.reg r) ∧
      t.pc = s.pc + 2#16 ∧ s.onlyRegsPc t)

/-! ## Index register and memory (43_index_memory.md) -/

/-- R150. -/
def Obligations.LoadIndexImmediate : Prop :=
  ∀ (nnn : Addr12) (s : State), decode (0xA#4 ++ nnn) = .op (.ldI nnn) ∧
    ∃ t, exec (.ldI nnn) s = .next t ∧ t.i.toNat = nnn.toNat ∧ t.pc = s.pc + 2#16 ∧ s.onlyIndexPc t

/-- ADD I, Vx: modulo 65536, no flag, no check (R151; the spec's choice, D3). -/
def Obligations.AddToIndex : Prop :=
  ∀ (x : Reg) (s : State), decode (0xF#4 ++ x ++ 0x1E#8) = .op (.addI x) ∧
    ∃ t, exec (.addI x) s = .next t ∧ t.i.toNat = (s.i.toNat + (s.reg x).toNat) % 65536 ∧
      t.pc = s.pc + 2#16 ∧ s.onlyIndexPc t

/-- LD F, Vx: five times the low nibble of Vx (R152). The low nibble for Vx above 15 is the spec's choice (D12). -/
def Obligations.GlyphAddressOfDigit : Prop :=
  ∀ (x : Reg) (s : State), decode (0xF#4 ++ x ++ 0x29#8) = .op (.ldGlyph x) ∧
    ∃ t, exec (.ldGlyph x) s = .next t ∧ t.i.toNat = 5 * ((s.reg x).toNat % 16) ∧
      t.pc = s.pc + 2#16 ∧ s.onlyIndexPc t

/-- LD B, Vx: the decimal digits at I, I + 1, I + 2 and nowhere else (R153). The range condition is the spec's choice
(D2); the canonical form of memory is the invariant StepKeepsMemoryCanonical. -/
def Obligations.BcdStoresDigits : Prop :=
  ∀ (x : Reg) (s : State), decode (0xF#4 ++ x ++ 0x33#8) = .op (.bcd x) ∧
    (s.memoryCanonical → s.i.toNat + 2 ≤ 0xFFF → ∃ t, exec (.bcd x) s = .next t ∧
      (t.byte s.i.toNat).toNat = (s.reg x).toNat / 100 ∧
      (t.byte (s.i.toNat + 1)).toNat = (s.reg x).toNat / 10 % 10 ∧
      (t.byte (s.i.toNat + 2)).toNat = (s.reg x).toNat % 10 ∧
      t.i = s.i ∧ t.pc = s.pc + 2#16 ∧ s.onlyStoredIndexPc t 3)

/-- LD [I], Vx: V0..Vx at I..I + X and nowhere else, for both settings of QUIRK_LOADSTORE_INC (R154). The range
condition and the quirk's default are the spec's choices (D2, D19). -/
def Obligations.StoreRegisters : Prop :=
  ∀ (x : Reg) (s : State), decode (0xF#4 ++ x ++ 0x55#8) = .op (.store x) ∧
    (s.memoryCanonical → s.i.toNat + x.toNat ≤ 0xFFF → ∃ t, exec (.store x) s = .next t ∧
      (∀ r : Reg, r.toNat ≤ x.toNat → t.byte (s.i.toNat + r.toNat) = s.reg r) ∧
      t.i.toNat = (if s.config.quirkLoadStoreInc then (s.i.toNat + x.toNat + 1) % 65536 else s.i.toNat) ∧
      t.pc = s.pc + 2#16 ∧ s.onlyStoredIndexPc t (x.toNat + 1))

/-- LD Vx, [I]: the bytes at I..I + X into V0..Vx, the registers above Vx unchanged, for both settings of
QUIRK_LOADSTORE_INC (R155). The range condition and the quirk's default are the spec's choices (D2, D19). -/
def Obligations.LoadRegisters : Prop :=
  ∀ (x : Reg) (s : State), decode (0xF#4 ++ x ++ 0x65#8) = .op (.load x) ∧
    (s.i.toNat + x.toNat ≤ 0xFFF → ∃ t, exec (.load x) s = .next t ∧
      (∀ r : Reg, t.reg r = if r.toNat ≤ x.toNat then s.byte (s.i.toNat + r.toNat) else s.reg r) ∧
      t.i.toNat = (if s.config.quirkLoadStoreInc then (s.i.toNat + x.toNat + 1) % 65536 else s.i.toNat) ∧
      t.pc = s.pc + 2#16 ∧ t = { s with v := t.v, i := t.i, pc := t.pc } ∧ ∀ a, t.byte a = s.byte a)

/-- The four instructions that access memory through I halt when their highest address exceeds 0xFFF, and do nothing
else (R57, R157; the spec's choices, D2 and D10). -/
def Obligations.AccessBeyondMemoryHalts : Prop :=
  ∀ (x y : Reg) (n : Nibble) (s : State),
    (n ≠ 0#4 → s.i.toNat + n.toNat - 1 > 0xFFF →
      exec (.drw x y n) s = .next { s with mode := .halted .addressOutOfRange }) ∧
    (s.i.toNat + 2 > 0xFFF → exec (.bcd x) s = .next { s with mode := .halted .addressOutOfRange }) ∧
    (s.i.toNat + x.toNat > 0xFFF → exec (.store x) s = .next { s with mode := .halted .addressOutOfRange }) ∧
    (s.i.toNat + x.toNat > 0xFFF → exec (.load x) s = .next { s with mode := .halted .addressOutOfRange })

/-- Store, then load at the same I from the memory the store left, whatever the registers have become in between:
V0..Vx are as they were (R154, R155; 95_test_vectors.md S8). The range condition is the spec's choice (D2). -/
def Obligations.StoreThenLoadRestores : Prop :=
  ∀ (x : Reg) (s : State), s.memoryCanonical → s.i.toNat + x.toNat ≤ 0xFFF →
    ∃ t, exec (.store x) s = .next t ∧
      ∀ u : State, u.mem = t.mem → u.i = s.i →
        ∃ w, exec (.load x) u = .next w ∧ ∀ r : Reg, r.toNat ≤ x.toNat → w.reg r = s.reg r

/-! ## Display (44_display.md) -/

/-- R170. -/
def Obligations.ClearScreen : Prop :=
  decode 0x00E0#16 = .op .cls ∧
  ∀ s : State, ∃ t, exec .cls s = .next t ∧ (∀ px py, t.fb.pixel px py = false) ∧ t.pc = s.pc + 2#16 ∧
    t = { s with fb := t.fb, pc := t.pc } ∧ ∀ a, t.byte a = s.byte a

/-- R172: one sprite bit at one pixel. -/
def Obligations.PixelOperation : Prop :=
  ∀ (d : Blit) (px qx : Fin 64) (py qy : Fin 32) (b : Bool),
    (d.bit px py b).fb.pixel qx qy =
      (if qx = px ∧ qy = py then (d.fb.pixel px py ^^ b) else d.fb.pixel qx qy) ∧
    ((d.bit px py b).hit = true ↔ d.hit = true ∨ (d.fb.pixel px py = true ∧ b = true))

/-- DRW, as a picture: the loop over rows and columns of R171 leaves each pixel XORed with the one sprite bit that falls
on it, wrapping on both axes, and VF is 1 iff a lit pixel went off. That the origin is read before VF is written and
the range condition are the spec's choices (D2, D9). -/
def Obligations.DrawXorsThePicture : Prop :=
  ∀ (x y : Reg) (n : Nibble) (s : State), decode (0xD#4 ++ x ++ y ++ n) = .op (.drw x y n) ∧
    (n = 0#4 ∨ s.i.toNat + n.toNat - 1 ≤ 0xFFF → ∃ t, exec (.drw x y n) s = .next t ∧
      (∀ px py, t.fb.pixel px py = (s.fb.pixel px py ^^ s.spriteBit (s.reg x) (s.reg y) n.toNat px py)) ∧
      (t.reg vf = 0#8 ∨ t.reg vf = 1#8) ∧
      (t.reg vf = 1#8 ↔ ∃ px py, s.fb.pixel px py = true ∧ t.fb.pixel px py = false) ∧
      (∀ r, r ≠ vf → t.reg r = s.reg r) ∧ t.pc = s.pc + 2#16 ∧
      t = { s with v := t.v, fb := t.fb, pc := t.pc } ∧ ∀ a, t.byte a = s.byte a)

/-- Drawing the same sprite twice at the same origin restores the framebuffer; from a blank one the first draw reports no
collision and the second reports one iff the sprite has a 1 bit (R171 g, 95_test_vectors.md S4; log 15 says why the
flag is claimed from a blank framebuffer only). The range condition is the spec's choice (D2). -/
def Obligations.DrawTwiceRestores : Prop :=
  ∀ (x y : Reg) (n : Nibble) (s : State), n = 0#4 ∨ s.i.toNat + n.toNat - 1 ≤ 0xFFF →
    ∃ t, exec (.drw x y n) s = .next t ∧
      ∀ u : State, u.fb = t.fb → u.mem = s.mem → u.i = s.i → u.reg x = s.reg x → u.reg y = s.reg y →
        ∃ w, exec (.drw x y n) u = .next w ∧ w.fb = s.fb ∧
          (s.fb = FrameBuffer.blank → t.reg vf = 0#8 ∧
            (w.reg vf = 1#8 ↔ ∃ px py, s.spriteBit (s.reg x) (s.reg y) n.toNat px py = true))

/-! ## Timers, keys and the random byte (45_timers_input_random.md) -/

/-- R180, R181 and R182. -/
def Obligations.TimerMoves : Prop :=
  ∀ (x : Reg) (s : State),
    decode (0xF#4 ++ x ++ 0x07#8) = .op (.ldFromDt x) ∧ decode (0xF#4 ++ x ++ 0x15#8) = .op (.ldDt x) ∧
    decode (0xF#4 ++ x ++ 0x18#8) = .op (.ldSt x) ∧
    (∃ t, exec (.ldFromDt x) s = .next t ∧ (∀ r, t.reg r = if r = x then s.dt else s.reg r) ∧
      t.pc = s.pc + 2#16 ∧ s.onlyRegsPc t) ∧
    (∃ t, exec (.ldDt x) s = .next t ∧ t.dt = s.reg x ∧ t.pc = s.pc + 2#16 ∧
      t = { s with dt := t.dt, pc := t.pc } ∧ ∀ a, t.byte a = s.byte a) ∧
    (∃ t, exec (.ldSt x) s = .next t ∧ t.st = s.reg x ∧ t.pc = s.pc + 2#16 ∧
      t = { s with st := t.st, pc := t.pc } ∧ ∀ a, t.byte a = s.byte a)

/-- RND, for whatever byte the environment draws: masked bit by bit, hence at most NN (R186). The free draw is the spec's
choice (D15); that it is the environment's answer `s.answer`, and that one answer is used up, are the model's (log 4). -/
def Obligations.RandomByteMasked : Prop :=
  ∀ (x : Reg) (nn : Byte) (s : State), decode (0xC#4 ++ x ++ nn) = .op (.rnd x nn) ∧
    ∃ t, exec (.rnd x nn) s = .next t ∧
      (∀ k, (t.reg x).getLsbD k = (s.answer.rand.getLsbD k && nn.getLsbD k)) ∧ (t.reg x).toNat ≤ nn.toNat ∧
      (∀ r, r ≠ x → t.reg r = s.reg r) ∧ t.pc = s.pc + 2#16 ∧ s.onlyRegsPcQuery t

/-- SKP and SKNP, for whatever key vector the environment gives: the key tested is the low nibble of Vx (R183, R184,
R187). The low nibble and the vector KEYS are the spec's choices (D11, D13); the answer used up is the model's (log 4). -/
def Obligations.SkipOnKey : Prop :=
  ∀ (x : Reg) (s : State),
    decode (0xE#4 ++ x ++ 0x9E#8) = .op (.skp x) ∧ decode (0xE#4 ++ x ++ 0xA1#8) = .op (.sknp x) ∧
    (∃ t, exec (.skp x) s = .next t ∧
      t.pc = (if s.answer.keys.getLsbD ((s.reg x).toNat % 16) then s.pc + 4#16 else s.pc + 2#16) ∧
      t = { s with pc := t.pc, env := s.env.tail, queries := s.queries + 1 } ∧ ∀ a, t.byte a = s.byte a) ∧
    (∃ t, exec (.sknp x) s = .next t ∧
      t.pc = (if s.answer.keys.getLsbD ((s.reg x).toNat % 16) then s.pc + 2#16 else s.pc + 4#16) ∧
      t = { s with pc := t.pc, env := s.env.tail, queries := s.queries + 1 } ∧ ∀ a, t.byte a = s.byte a)

/-- LD Vx, K in the cycle that fetches it (R185): with a key down it completes at once with the code of a key that is
down; with none, MODE becomes AwaitingKey(X) and PC stays. The explicit mode and the vector KEYS are the spec's
choices (D13, D14); the answer used up is the model's (log 4). -/
def Obligations.KeyWaitInstruction : Prop :=
  ∀ (x : Reg) (s : State), decode (0xF#4 ++ x ++ 0x0A#8) = .op (.ldKey x) ∧
    (s.answer.keys ≠ 0#16 → ∃ (t : State) (k : Nibble), exec (.ldKey x) s = .next t ∧
      s.answer.keys.getLsbD k.toNat = true ∧ (∀ r, t.reg r = if r = x then BitVec.ofNat 8 k.toNat else s.reg r) ∧
      t.pc = s.pc + 2#16 ∧ s.onlyRegsPcQuery t) ∧
    (s.answer.keys = 0#16 →
      exec (.ldKey x) s =
        .next { s with mode := .awaitingKey x, env := s.env.tail, queries := s.queries + 1 })

/-- `any_key()` reports none iff no key is down, else a key that is down, and any key that is down may be the one reported
(R30; the model of the keypad is the spec's choice, D13; log 4). -/
def Obligations.AnyKeyReportsADownKey : Prop :=
  ∀ keys : BitVec 16,
    (∀ pick, anyKey keys pick = none ↔ keys = 0#16) ∧
    (∀ pick k, anyKey keys pick = some k → keys.getLsbD k.toNat = true) ∧
    ∀ k : Nibble, keys.getLsbD k.toNat = true → ∃ pick, anyKey keys pick = some k

/-! ## Reset (70_reset_and_hazards.md) and memory -/

/-- The state after reset (R34, R232). The zeros other than PC's are the spec's choice (D20); the glyph bytes are named,
not given. -/
def Obligations.ResetState : Prop :=
  (∀ r, State.reset.reg r = 0#8) ∧ State.reset.i = 0#16 ∧ State.reset.pc = 0x200#16 ∧ State.reset.stack = [] ∧
  State.reset.dt = 0#8 ∧ State.reset.st = 0#8 ∧ (∀ px py, State.reset.fb.pixel px py = false) ∧
  State.reset.mode = .running ∧
  (∀ k : Fin 80, State.reset.byte k.val = glyphTable[k]) ∧ ∀ a, 0x050 ≤ a → State.reset.byte a = 0#8

/-- Byte i of the image is at 0x200 + i, whatever the image (R231), and its first two bytes are the first instruction
fetched, the first of them high; that byte order is the spec's choice (D1). -/
def Obligations.ImageLoadedVerbatim : Prop :=
  ∀ (config : Config) (glyphs : Vector Byte 80) (image : List Byte), image.length ≤ 3584 →
    ∃ t, State.construct config glyphs image = .next t ∧ t.pc = 0x200#16 ∧ t.mode = .running ∧
      (∀ (k : Nat) (h : k < image.length), t.byte (0x200 + k) = image[k]) ∧
      ∀ h : 2 ≤ image.length, t.fetchWord = image[0] ++ image[1]

/-- What else a construction leaves (R34, R52, R230, R234): the glyph table given, zero elsewhere, every other element as
after reset, memory in canonical form; an image that is too long is refused. The zeros and the refusal are the
spec's choices (D20, D21). -/
def Obligations.ConstructLeavesResetState : Prop :=
  ∀ (config : Config) (glyphs : Vector Byte 80) (image : List Byte),
    (image.length ≤ 3584 → ∃ t, State.construct config glyphs image = .next t ∧
      (∀ k : Fin 80, t.byte k.val = glyphs[k]) ∧
      (∀ a, 0x050 ≤ a → a < 0x200 ∨ 0x200 + image.length ≤ a → t.byte a = 0#8) ∧
      t.memoryCanonical ∧ t = { State.reset with mem := t.mem, config := config }) ∧
    (image.length > 3584 → State.construct config glyphs image = .refused .imageTooLong)

/-- Memory is what it reads as: two memories in canonical form that read the same at every address are the same data
(R50; log 9). -/
def Obligations.MemoryIsWhatItReadsAs : Prop :=
  ∀ m m' : List Host.Cell, Memory.wf m → Memory.wf m' → (∀ a, Memory.read m a = Memory.read m' a) → m = m'
end

