-- ==== Sys2Proof/Laws/Decode.lean ====
section
/-! SUPPORT. The fields of a word put together from its digits, and a word put together from its fields (R71). -/

namespace Sys2Proof

/-! ## Bits of words of the formats NNN, XNN and XYN (R72) -/

section
variable (f x y n : BitVec 4) (nn : BitVec 8) (nnn : BitVec 12) (w : Word)

theorem getLsbD_nnn (i : Nat) : BitVec.getLsbD (w := 16) (f ++ nnn) i =
    if i < 12 then nnn.getLsbD i else f.getLsbD (i - 12) := by
  have h := BitVec.getLsbD_append (x := f) (y := nnn) (i := i)
  simpa using h

theorem getLsbD_xnn (i : Nat) : BitVec.getLsbD (w := 16) (f ++ x ++ nn) i =
    if i < 8 then nn.getLsbD i else if i < 12 then x.getLsbD (i - 8) else f.getLsbD (i - 12) := by
  have h := BitVec.getLsbD_append (x := f ++ x) (y := nn) (i := i)
  have h' := BitVec.getLsbD_append (x := f) (y := x) (i := i - 8)
  refine (h.trans ?_)
  by_cases hi : i < 8
  · simp [hi]
  · rw [h']
    by_cases hj : i < 12
    · simp [hi, hj, show i - 8 < 4 by omega]
    · simp [hi, hj, show ¬ i - 8 < 4 by omega, show i - 8 - 4 = i - 12 by omega]

theorem getLsbD_xyn (i : Nat) : BitVec.getLsbD (w := 16) (f ++ x ++ y ++ n) i =
    if i < 4 then n.getLsbD i else if i < 8 then y.getLsbD (i - 4)
    else if i < 12 then x.getLsbD (i - 8) else f.getLsbD (i - 12) := by
  have h := BitVec.getLsbD_append (x := f ++ x ++ y) (y := n) (i := i)
  have h' := BitVec.getLsbD_append (x := f ++ x) (y := y) (i := i - 4)
  have h'' := BitVec.getLsbD_append (x := f) (y := x) (i := i - 8)
  refine (h.trans ?_)
  by_cases hi : i < 4
  · simp [hi]
  · rw [h']
    by_cases hj : i < 8
    · simp [hi, hj, show i - 4 < 4 by omega]
    · rw [show i - 4 - 4 = i - 8 by omega, h'']
      by_cases hk : i < 12
      · simp [hi, hj, hk, show ¬ i - 4 < 4 by omega, show i - 8 < 4 by omega]
      · simp [hi, hj, hk, show ¬ i - 4 < 4 by omega, show ¬ i - 8 < 4 by omega, show i - 8 - 4 = i - 12 by omega]

theorem getLsbD_family (i : Nat) : (family w).getLsbD i = (decide (i < 4) && w.getLsbD (12 + i)) := by
  simp [family]

theorem getLsbD_fieldX (i : Nat) : (fieldX w).getLsbD i = (decide (i < 4) && w.getLsbD (8 + i)) := by
  simp [fieldX]

theorem getLsbD_fieldY (i : Nat) : (fieldY w).getLsbD i = (decide (i < 4) && w.getLsbD (4 + i)) := by
  simp [fieldY]

theorem getLsbD_fieldN (i : Nat) : (fieldN w).getLsbD i = (decide (i < 4) && w.getLsbD i) := by
  simp [fieldN]

theorem getLsbD_fieldNN (i : Nat) : (fieldNN w).getLsbD i = (decide (i < 8) && w.getLsbD i) := by
  simp [fieldNN]

theorem getLsbD_fieldNNN (i : Nat) : (fieldNNN w).getLsbD i = (decide (i < 12) && w.getLsbD i) := by
  simp [fieldNNN]

/-! ## Fields of such words -/

@[simp] theorem family_nnn : family (f ++ nnn) = f := by
  apply BitVec.eq_of_getLsbD_eq
  intro i hi
  rw [getLsbD_family, getLsbD_nnn]
  simp [hi]

@[simp] theorem fieldNNN_nnn : fieldNNN (f ++ nnn) = nnn := by
  apply BitVec.eq_of_getLsbD_eq
  intro i hi
  rw [getLsbD_fieldNNN, getLsbD_nnn]
  simp [hi]

@[simp] theorem family_xnn : family (f ++ x ++ nn) = f := by
  apply BitVec.eq_of_getLsbD_eq
  intro i hi
  rw [getLsbD_family, getLsbD_xnn]
  simp [hi, show ¬ 12 + i < 8 by omega]

@[simp] theorem fieldX_xnn : fieldX (f ++ x ++ nn) = x := by
  apply BitVec.eq_of_getLsbD_eq
  intro i hi
  rw [getLsbD_fieldX, getLsbD_xnn]
  simp [hi, show 8 + i < 12 by omega]

@[simp] theorem fieldNN_xnn : fieldNN (f ++ x ++ nn) = nn := by
  apply BitVec.eq_of_getLsbD_eq
  intro i hi
  rw [getLsbD_fieldNN, getLsbD_xnn]
  simp [hi]

@[simp] theorem family_xyn : family (f ++ x ++ y ++ n) = f := by
  apply BitVec.eq_of_getLsbD_eq
  intro i hi
  rw [getLsbD_family, getLsbD_xyn]
  simp [hi, show ¬ 12 + i < 4 by omega, show ¬ 12 + i < 8 by omega]

@[simp] theorem fieldX_xyn : fieldX (f ++ x ++ y ++ n) = x := by
  apply BitVec.eq_of_getLsbD_eq
  intro i hi
  rw [getLsbD_fieldX, getLsbD_xyn]
  simp [hi, show ¬ 8 + i < 4 by omega, show 8 + i < 12 by omega]

@[simp] theorem fieldY_xyn : fieldY (f ++ x ++ y ++ n) = y := by
  apply BitVec.eq_of_getLsbD_eq
  intro i hi
  rw [getLsbD_fieldY, getLsbD_xyn]
  simp [hi, show 4 + i < 8 by omega]

@[simp] theorem fieldN_xyn : fieldN (f ++ x ++ y ++ n) = n := by
  apply BitVec.eq_of_getLsbD_eq
  intro i hi
  rw [getLsbD_fieldN, getLsbD_xyn]
  simp [hi]

/-! ## A word from its fields -/

theorem nnn_of_fields : (family w ++ fieldNNN w : BitVec 16) = w := by
  apply BitVec.eq_of_getLsbD_eq
  intro i hi
  rw [getLsbD_nnn, getLsbD_family, getLsbD_fieldNNN]
  by_cases h : i < 12
  · simp [h]
  · simp [h, show i - 12 < 4 by omega, show 12 + (i - 12) = i by omega]

theorem xnn_of_fields : (family w ++ fieldX w ++ fieldNN w : BitVec 16) = w := by
  apply BitVec.eq_of_getLsbD_eq
  intro i hi
  rw [getLsbD_xnn, getLsbD_family, getLsbD_fieldX, getLsbD_fieldNN]
  by_cases h : i < 8
  · simp [h]
  · by_cases h' : i < 12
    · simp [h, h', show i - 8 < 4 by omega, show 8 + (i - 8) = i by omega]
    · simp [h, h', show i - 12 < 4 by omega, show 12 + (i - 12) = i by omega]

theorem xyn_of_fields : (family w ++ fieldX w ++ fieldY w ++ fieldN w : BitVec 16) = w := by
  apply BitVec.eq_of_getLsbD_eq
  intro i hi
  rw [getLsbD_xyn, getLsbD_family, getLsbD_fieldX, getLsbD_fieldY, getLsbD_fieldN]
  by_cases h : i < 4
  · simp [h]
  · by_cases h' : i < 8
    · simp [h, h', show i - 4 < 4 by omega, show 4 + (i - 4) = i by omega]
    · by_cases h'' : i < 12
      · simp [h, h', h'', show i - 8 < 4 by omega, show 8 + (i - 8) = i by omega]
      · simp [h, h', h'', show i - 12 < 4 by omega, show 12 + (i - 12) = i by omega]

end

/-! ## Bytes of a word (R55) -/

theorem wordOfBytes_toNat (a b : Byte) : (wordOfBytes a b).toNat = a.toNat * 256 + b.toNat := by
  have h := BitVec.toNat_append a b
  have hb := b.isLt
  show BitVec.toNat (a ++ b) = _
  rw [h, ← Nat.shiftLeft_add_eq_or_of_lt hb, Nat.shiftLeft_eq]

theorem wordOfBytes_of_word (w : Word) : wordOfBytes (w.extractLsb' 8 8) (w.extractLsb' 0 8) = w := by
  apply BitVec.eq_of_toNat_eq
  rw [wordOfBytes_toNat]
  simp only [BitVec.extractLsb'_toNat, Nat.shiftRight_eq_div_pow]
  have := w.isLt
  omega

/-! ## The masks of R74 -/

section
variable (f x y n : BitVec 4) (nn : BitVec 8) (nnn : BitVec 12) (w : Word)

theorem masked_F000 : w &&& 0xF000#16 = family w ++ 0x000#12 := by
  apply BitVec.eq_of_getLsbD_eq
  intro i hi
  rw [getLsbD_nnn, getLsbD_family, BitVec.getLsbD_and]
  interval_cases i <;> simp

theorem masked_F00F : w &&& 0xF00F#16 = family w ++ 0x0#4 ++ 0x0#4 ++ fieldN w := by
  apply BitVec.eq_of_getLsbD_eq
  intro i hi
  rw [getLsbD_xyn, getLsbD_family, getLsbD_fieldN, BitVec.getLsbD_and]
  interval_cases i <;> simp

theorem masked_F0FF : w &&& 0xF0FF#16 = family w ++ 0x0#4 ++ fieldNN w := by
  apply BitVec.eq_of_getLsbD_eq
  intro i hi
  rw [getLsbD_xnn, getLsbD_family, getLsbD_fieldNN, BitVec.getLsbD_and]
  interval_cases i <;> simp

theorem masked_FFFF : w &&& 0xFFFF#16 = w := by
  apply BitVec.eq_of_getLsbD_eq
  intro i hi
  rw [BitVec.getLsbD_and]
  interval_cases i <;> simp

/-- A row of mask F000 selects the words of its family. -/
theorem mask_F000 : w &&& 0xF000#16 = f ++ 0x000#12 ↔ family w = f := by
  rw [masked_F000]
  exact ⟨fun h => by simpa using congrArg family h, fun h => by rw [h]⟩

/-- A row of mask F00F selects by family and trailing nibble. -/
theorem mask_F00F : w &&& 0xF00F#16 = f ++ 0x0#4 ++ 0x0#4 ++ n ↔ family w = f ∧ fieldN w = n := by
  rw [masked_F00F]
  exact ⟨fun h => ⟨by simpa using congrArg family h, by simpa using congrArg fieldN h⟩,
    fun ⟨h, h'⟩ => by rw [h, h']⟩

/-- A row of mask F0FF selects by family and trailing byte. -/
theorem mask_F0FF : w &&& 0xF0FF#16 = f ++ 0x0#4 ++ nn ↔ family w = f ∧ fieldNN w = nn := by
  rw [masked_F0FF]
  exact ⟨fun h => ⟨by simpa using congrArg family h, by simpa using congrArg fieldNN h⟩,
    fun ⟨h, h'⟩ => by rw [h, h']⟩

end

end Sys2Proof
end

