-- ==== Sys2Proof/Laws/Memory.lean ====
section
/-! SUPPORT. The laws of memory: a read after a write, and that every write keeps the canonical form. -/

namespace Sys2Proof.Machine

/-- The addresses are strictly rising: the half of the canonical form that reads depend on. -/
abbrev Memory.sorted (m : List Host.Cell) : Prop := m.Pairwise (fun c d => c.1 < d.1)

/-- An address below every listed one reads as its reset contents. -/
theorem Memory.read_below {m : List Host.Cell} {a : Nat} (h : ∀ c ∈ m, a < c.1) : Memory.read m a = resetByte a := by
  induction m with
  | nil => rfl
  | cons c m ih =>
    have hc : a < c.1 := h c (by simp)
    simp only [Memory.read, Nat.ne_of_lt hc, if_false]
    exact ih fun d hd => h d (by simp [hd])

/-- What a write lists: the written cell, or cells listed before. -/
theorem Memory.mem_write {m : List Host.Cell} {a : Nat} {b : Byte} {c : Host.Cell} (h : c ∈ Memory.write m a b) :
    (c = (a, b) ∧ b ≠ resetByte a) ∨ c ∈ m := by
  induction m with
  | nil =>
    simp only [Memory.write] at h
    split at h <;> simp_all
  | cons d m ih =>
    simp only [Memory.write] at h
    split at h
    · split at h
      · exact .inr h
      · rcases List.mem_cons.1 h with h | h
        · exact .inl ⟨h, ‹_›⟩
        · exact .inr h
    · split at h
      · split at h
        · exact .inr (List.mem_cons_of_mem _ h)
        · rcases List.mem_cons.1 h with h | h
          · exact .inl ⟨h, ‹_›⟩
          · exact .inr (List.mem_cons_of_mem _ h)
      · rcases List.mem_cons.1 h with h | h
        · exact .inr (by simp [h])
        · exact (ih h).imp_right (List.mem_cons_of_mem _)

/-- A write keeps the addresses strictly rising. -/
theorem Memory.sorted_write {m : List Host.Cell} (hm : Memory.sorted m) (a : Nat) (b : Byte) :
    Memory.sorted (Memory.write m a b) := by
  induction m with
  | nil => simp only [Memory.write]; split <;> simp
  | cons d m ih =>
    obtain ⟨hd, hm'⟩ := List.pairwise_cons.1 hm
    simp only [Memory.write]
    split
    · split
      · exact hm
      · refine List.pairwise_cons.2 ⟨fun c hc => ?_, hm⟩
        rcases List.mem_cons.1 hc with rfl | hc
        · assumption
        · exact Nat.lt_trans ‹_› (hd c hc)
    · split
      · split
        · exact hm'
        · exact List.pairwise_cons.2 ⟨fun c hc => by have := hd c hc; simp_all, hm'⟩
      · refine List.pairwise_cons.2 ⟨fun c hc => ?_, ih hm'⟩
        rcases Memory.mem_write hc with ⟨rfl, -⟩ | hc
        · show d.1 < a; omega
        · exact hd c hc

/-- A write within the address space keeps the canonical form. -/
theorem Memory.wf_write {m : List Host.Cell} (hm : Memory.wf m) {a : Nat} (ha : a < 4096) (b : Byte) :
    Memory.wf (Memory.write m a b) := by
  refine ⟨Memory.sorted_write hm.1 a b, fun c hc => ?_⟩
  rcases Memory.mem_write hc with ⟨rfl, hb⟩ | hc
  · exact ⟨ha, hb⟩
  · exact hm.2 c hc

/-- A write leaves every other address alone. -/
theorem Memory.read_write_other (m : List Host.Cell) {a c : Nat} (h : c ≠ a) (b : Byte) :
    Memory.read (Memory.write m a b) c = Memory.read m c := by
  induction m with
  | nil => simp only [Memory.write]; split <;> simp [Memory.read, h]
  | cons d m ih =>
    simp only [Memory.write]
    split
    · split <;> simp [Memory.read, h]
    · split
      · split <;> simp_all [Memory.read]
      · simp [Memory.read, ih]

/-- A read gives what was last written there. -/
theorem Memory.read_write_same {m : List Host.Cell} (hm : Memory.sorted m) (a : Nat) (b : Byte) :
    Memory.read (Memory.write m a b) a = b := by
  induction m with
  | nil => simp only [Memory.write]; split <;> simp_all [Memory.read]
  | cons d m ih =>
    obtain ⟨hd, hm'⟩ := List.pairwise_cons.1 hm
    simp only [Memory.write]
    split
    · split
      · rename_i h hb
        rw [hb, Memory.read_below]
        intro c hc
        rcases List.mem_cons.1 hc with rfl | hc
        · exact h
        · exact Nat.lt_trans h (hd c hc)
      · simp [Memory.read]
    · split
      · split
        · rename_i h hb
          rw [hb, Memory.read_below]
          intro c hc
          exact h ▸ hd c hc
        · simp [Memory.read]
      · rename_i h
        simp [Memory.read, h, ih hm']

/-- A read after a write. -/
theorem Memory.read_write {m : List Host.Cell} (hm : Memory.sorted m) (a c : Nat) (b : Byte) :
    Memory.read (Memory.write m a b) c = if c = a then b else Memory.read m c := by
  by_cases h : c = a
  · subst h; simp [Memory.read_write_same hm]
  · simp [h, Memory.read_write_other m h]

/-- Consecutive writes keep the addresses strictly rising. -/
theorem Memory.sorted_writeBytes {m : List Host.Cell} (hm : Memory.sorted m) (a : Nat) (bs : List Byte) :
    Memory.sorted (Memory.writeBytes m a bs) := by
  induction bs generalizing m a with
  | nil => exact hm
  | cons b bs ih => exact ih (Memory.sorted_write hm a b) (a + 1)

/-- Consecutive writes within the address space keep the canonical form. -/
theorem Memory.wf_writeBytes {m : List Host.Cell} (hm : Memory.wf m) {a : Nat} {bs : List Byte}
    (h : a + bs.length ≤ 4096) : Memory.wf (Memory.writeBytes m a bs) := by
  induction bs generalizing m a with
  | nil => exact hm
  | cons b bs ih =>
    simp only [List.length_cons] at h
    exact ih (Memory.wf_write hm (by omega) b) (by omega)

/-- Consecutive writes leave every address outside them alone. -/
theorem Memory.read_writeBytes_other (m : List Host.Cell) {a c : Nat} {bs : List Byte}
    (h : ¬(a ≤ c ∧ c < a + bs.length)) : Memory.read (Memory.writeBytes m a bs) c = Memory.read m c := by
  induction bs generalizing m a with
  | nil => rfl
  | cons b bs ih =>
    simp only [List.length_cons] at h
    rw [Memory.writeBytes, ih _ (by omega), Memory.read_write_other _ (by omega)]

/-- The k-th of consecutive writes is what its address reads as afterwards. -/
theorem Memory.read_writeBytes_at {m : List Host.Cell} (hm : Memory.sorted m) (a : Nat) {bs : List Byte} {k : Nat}
    (h : k < bs.length) : Memory.read (Memory.writeBytes m a bs) (a + k) = bs[k] := by
  induction bs generalizing m a k with
  | nil => simp at h
  | cons b bs ih =>
    rw [Memory.writeBytes]
    cases k with
    | zero =>
      rw [Memory.read_writeBytes_other _ (by omega)]
      exact Memory.read_write_same hm a b
    | succ k =>
      have := ih (Memory.sorted_write hm a b) (a + 1) (k := k) (by simpa using h)
      simpa [Nat.add_assoc, Nat.add_comm 1 k] using this

end Sys2Proof.Machine
end

