-- ==== Sys2Proof/Laws/State.lean ====
section
/-! SUPPORT. What each update of the state does to each field, one lemma per field per update, so that no proof
unfolds a record update. The last part says the same of the accessors `reg` and `byte`. -/

namespace Sys2Proof.Machine

variable (s : State)

/-! `setReg` -/

@[simp] theorem setReg_i (x : Reg) (b : Byte) : (s.setReg x b).i = s.i := rfl
@[simp] theorem setReg_pc (x : Reg) (b : Byte) : (s.setReg x b).pc = s.pc := rfl
@[simp] theorem setReg_stack (x : Reg) (b : Byte) : (s.setReg x b).stack = s.stack := rfl
@[simp] theorem setReg_dt (x : Reg) (b : Byte) : (s.setReg x b).dt = s.dt := rfl
@[simp] theorem setReg_st (x : Reg) (b : Byte) : (s.setReg x b).st = s.st := rfl
@[simp] theorem setReg_fb (x : Reg) (b : Byte) : (s.setReg x b).fb = s.fb := rfl
@[simp] theorem setReg_mem (x : Reg) (b : Byte) : (s.setReg x b).mem = s.mem := rfl
@[simp] theorem setReg_mode (x : Reg) (b : Byte) : (s.setReg x b).mode = s.mode := rfl
@[simp] theorem setReg_tick (x : Reg) (b : Byte) : (s.setReg x b).tick = s.tick := rfl
@[simp] theorem setReg_env (x : Reg) (b : Byte) : (s.setReg x b).env = s.env := rfl
@[simp] theorem setReg_queries (x : Reg) (b : Byte) : (s.setReg x b).queries = s.queries := rfl
@[simp] theorem setReg_config (x : Reg) (b : Byte) : (s.setReg x b).config = s.config := rfl

/-! `setFlag` -/

@[simp] theorem setFlag_i (c : Bool) : (s.setFlag c).i = s.i := rfl
@[simp] theorem setFlag_pc (c : Bool) : (s.setFlag c).pc = s.pc := rfl
@[simp] theorem setFlag_stack (c : Bool) : (s.setFlag c).stack = s.stack := rfl
@[simp] theorem setFlag_dt (c : Bool) : (s.setFlag c).dt = s.dt := rfl
@[simp] theorem setFlag_st (c : Bool) : (s.setFlag c).st = s.st := rfl
@[simp] theorem setFlag_fb (c : Bool) : (s.setFlag c).fb = s.fb := rfl
@[simp] theorem setFlag_mem (c : Bool) : (s.setFlag c).mem = s.mem := rfl
@[simp] theorem setFlag_mode (c : Bool) : (s.setFlag c).mode = s.mode := rfl
@[simp] theorem setFlag_tick (c : Bool) : (s.setFlag c).tick = s.tick := rfl
@[simp] theorem setFlag_env (c : Bool) : (s.setFlag c).env = s.env := rfl
@[simp] theorem setFlag_queries (c : Bool) : (s.setFlag c).queries = s.queries := rfl
@[simp] theorem setFlag_config (c : Bool) : (s.setFlag c).config = s.config := rfl

/-! `setI` -/

@[simp] theorem setI_v (a : Word) : (s.setI a).v = s.v := rfl
@[simp] theorem setI_i (a : Word) : (s.setI a).i = a := rfl
@[simp] theorem setI_pc (a : Word) : (s.setI a).pc = s.pc := rfl
@[simp] theorem setI_stack (a : Word) : (s.setI a).stack = s.stack := rfl
@[simp] theorem setI_dt (a : Word) : (s.setI a).dt = s.dt := rfl
@[simp] theorem setI_st (a : Word) : (s.setI a).st = s.st := rfl
@[simp] theorem setI_fb (a : Word) : (s.setI a).fb = s.fb := rfl
@[simp] theorem setI_mem (a : Word) : (s.setI a).mem = s.mem := rfl
@[simp] theorem setI_mode (a : Word) : (s.setI a).mode = s.mode := rfl
@[simp] theorem setI_tick (a : Word) : (s.setI a).tick = s.tick := rfl
@[simp] theorem setI_env (a : Word) : (s.setI a).env = s.env := rfl
@[simp] theorem setI_queries (a : Word) : (s.setI a).queries = s.queries := rfl
@[simp] theorem setI_config (a : Word) : (s.setI a).config = s.config := rfl

/-! `setDt` -/

@[simp] theorem setDt_v (b : Byte) : (s.setDt b).v = s.v := rfl
@[simp] theorem setDt_i (b : Byte) : (s.setDt b).i = s.i := rfl
@[simp] theorem setDt_pc (b : Byte) : (s.setDt b).pc = s.pc := rfl
@[simp] theorem setDt_stack (b : Byte) : (s.setDt b).stack = s.stack := rfl
@[simp] theorem setDt_dt (b : Byte) : (s.setDt b).dt = b := rfl
@[simp] theorem setDt_st (b : Byte) : (s.setDt b).st = s.st := rfl
@[simp] theorem setDt_fb (b : Byte) : (s.setDt b).fb = s.fb := rfl
@[simp] theorem setDt_mem (b : Byte) : (s.setDt b).mem = s.mem := rfl
@[simp] theorem setDt_mode (b : Byte) : (s.setDt b).mode = s.mode := rfl
@[simp] theorem setDt_tick (b : Byte) : (s.setDt b).tick = s.tick := rfl
@[simp] theorem setDt_env (b : Byte) : (s.setDt b).env = s.env := rfl
@[simp] theorem setDt_queries (b : Byte) : (s.setDt b).queries = s.queries := rfl
@[simp] theorem setDt_config (b : Byte) : (s.setDt b).config = s.config := rfl

/-! `setSt` -/

@[simp] theorem setSt_v (b : Byte) : (s.setSt b).v = s.v := rfl
@[simp] theorem setSt_i (b : Byte) : (s.setSt b).i = s.i := rfl
@[simp] theorem setSt_pc (b : Byte) : (s.setSt b).pc = s.pc := rfl
@[simp] theorem setSt_stack (b : Byte) : (s.setSt b).stack = s.stack := rfl
@[simp] theorem setSt_dt (b : Byte) : (s.setSt b).dt = s.dt := rfl
@[simp] theorem setSt_st (b : Byte) : (s.setSt b).st = b := rfl
@[simp] theorem setSt_fb (b : Byte) : (s.setSt b).fb = s.fb := rfl
@[simp] theorem setSt_mem (b : Byte) : (s.setSt b).mem = s.mem := rfl
@[simp] theorem setSt_mode (b : Byte) : (s.setSt b).mode = s.mode := rfl
@[simp] theorem setSt_tick (b : Byte) : (s.setSt b).tick = s.tick := rfl
@[simp] theorem setSt_env (b : Byte) : (s.setSt b).env = s.env := rfl
@[simp] theorem setSt_queries (b : Byte) : (s.setSt b).queries = s.queries := rfl
@[simp] theorem setSt_config (b : Byte) : (s.setSt b).config = s.config := rfl

/-! `advance` -/

@[simp] theorem advance_v : (s.advance).v = s.v := rfl
@[simp] theorem advance_i : (s.advance).i = s.i := rfl
@[simp] theorem advance_pc : (s.advance).pc = s.pc + 2#16 := rfl
@[simp] theorem advance_stack : (s.advance).stack = s.stack := rfl
@[simp] theorem advance_dt : (s.advance).dt = s.dt := rfl
@[simp] theorem advance_st : (s.advance).st = s.st := rfl
@[simp] theorem advance_fb : (s.advance).fb = s.fb := rfl
@[simp] theorem advance_mem : (s.advance).mem = s.mem := rfl
@[simp] theorem advance_mode : (s.advance).mode = s.mode := rfl
@[simp] theorem advance_tick : (s.advance).tick = s.tick := rfl
@[simp] theorem advance_env : (s.advance).env = s.env := rfl
@[simp] theorem advance_queries : (s.advance).queries = s.queries := rfl
@[simp] theorem advance_config : (s.advance).config = s.config := rfl

/-! `skip` -/

@[simp] theorem skip_v : (s.skip).v = s.v := rfl
@[simp] theorem skip_i : (s.skip).i = s.i := rfl
@[simp] theorem skip_pc : (s.skip).pc = s.pc + 4#16 := rfl
@[simp] theorem skip_stack : (s.skip).stack = s.stack := rfl
@[simp] theorem skip_dt : (s.skip).dt = s.dt := rfl
@[simp] theorem skip_st : (s.skip).st = s.st := rfl
@[simp] theorem skip_fb : (s.skip).fb = s.fb := rfl
@[simp] theorem skip_mem : (s.skip).mem = s.mem := rfl
@[simp] theorem skip_mode : (s.skip).mode = s.mode := rfl
@[simp] theorem skip_tick : (s.skip).tick = s.tick := rfl
@[simp] theorem skip_env : (s.skip).env = s.env := rfl
@[simp] theorem skip_queries : (s.skip).queries = s.queries := rfl
@[simp] theorem skip_config : (s.skip).config = s.config := rfl

/-! `skipIf` -/

@[simp] theorem skipIf_v (c : Bool) : (s.skipIf c).v = s.v := rfl
@[simp] theorem skipIf_i (c : Bool) : (s.skipIf c).i = s.i := rfl
@[simp] theorem skipIf_pc (c : Bool) : (s.skipIf c).pc = if c then s.pc + 4#16 else s.pc + 2#16 := rfl
@[simp] theorem skipIf_stack (c : Bool) : (s.skipIf c).stack = s.stack := rfl
@[simp] theorem skipIf_dt (c : Bool) : (s.skipIf c).dt = s.dt := rfl
@[simp] theorem skipIf_st (c : Bool) : (s.skipIf c).st = s.st := rfl
@[simp] theorem skipIf_fb (c : Bool) : (s.skipIf c).fb = s.fb := rfl
@[simp] theorem skipIf_mem (c : Bool) : (s.skipIf c).mem = s.mem := rfl
@[simp] theorem skipIf_mode (c : Bool) : (s.skipIf c).mode = s.mode := rfl
@[simp] theorem skipIf_tick (c : Bool) : (s.skipIf c).tick = s.tick := rfl
@[simp] theorem skipIf_env (c : Bool) : (s.skipIf c).env = s.env := rfl
@[simp] theorem skipIf_queries (c : Bool) : (s.skipIf c).queries = s.queries := rfl
@[simp] theorem skipIf_config (c : Bool) : (s.skipIf c).config = s.config := rfl

/-! `jump` -/

@[simp] theorem jump_v (a : Word) : (s.jump a).v = s.v := rfl
@[simp] theorem jump_i (a : Word) : (s.jump a).i = s.i := rfl
@[simp] theorem jump_pc (a : Word) : (s.jump a).pc = a := rfl
@[simp] theorem jump_stack (a : Word) : (s.jump a).stack = s.stack := rfl
@[simp] theorem jump_dt (a : Word) : (s.jump a).dt = s.dt := rfl
@[simp] theorem jump_st (a : Word) : (s.jump a).st = s.st := rfl
@[simp] theorem jump_fb (a : Word) : (s.jump a).fb = s.fb := rfl
@[simp] theorem jump_mem (a : Word) : (s.jump a).mem = s.mem := rfl
@[simp] theorem jump_mode (a : Word) : (s.jump a).mode = s.mode := rfl
@[simp] theorem jump_tick (a : Word) : (s.jump a).tick = s.tick := rfl
@[simp] theorem jump_env (a : Word) : (s.jump a).env = s.env := rfl
@[simp] theorem jump_queries (a : Word) : (s.jump a).queries = s.queries := rfl
@[simp] theorem jump_config (a : Word) : (s.jump a).config = s.config := rfl

/-! `push` -/

@[simp] theorem push_v (a : Word) : (s.push a).v = s.v := rfl
@[simp] theorem push_i (a : Word) : (s.push a).i = s.i := rfl
@[simp] theorem push_pc (a : Word) : (s.push a).pc = s.pc := rfl
@[simp] theorem push_stack (a : Word) : (s.push a).stack = a :: s.stack := rfl
@[simp] theorem push_dt (a : Word) : (s.push a).dt = s.dt := rfl
@[simp] theorem push_st (a : Word) : (s.push a).st = s.st := rfl
@[simp] theorem push_fb (a : Word) : (s.push a).fb = s.fb := rfl
@[simp] theorem push_mem (a : Word) : (s.push a).mem = s.mem := rfl
@[simp] theorem push_mode (a : Word) : (s.push a).mode = s.mode := rfl
@[simp] theorem push_tick (a : Word) : (s.push a).tick = s.tick := rfl
@[simp] theorem push_env (a : Word) : (s.push a).env = s.env := rfl
@[simp] theorem push_queries (a : Word) : (s.push a).queries = s.queries := rfl
@[simp] theorem push_config (a : Word) : (s.push a).config = s.config := rfl

/-! `halt` -/

@[simp] theorem halt_v (r : HaltReason) : (s.halt r).v = s.v := rfl
@[simp] theorem halt_i (r : HaltReason) : (s.halt r).i = s.i := rfl
@[simp] theorem halt_pc (r : HaltReason) : (s.halt r).pc = s.pc := rfl
@[simp] theorem halt_stack (r : HaltReason) : (s.halt r).stack = s.stack := rfl
@[simp] theorem halt_dt (r : HaltReason) : (s.halt r).dt = s.dt := rfl
@[simp] theorem halt_st (r : HaltReason) : (s.halt r).st = s.st := rfl
@[simp] theorem halt_fb (r : HaltReason) : (s.halt r).fb = s.fb := rfl
@[simp] theorem halt_mem (r : HaltReason) : (s.halt r).mem = s.mem := rfl
@[simp] theorem halt_mode (r : HaltReason) : (s.halt r).mode = .halted r := rfl
@[simp] theorem halt_tick (r : HaltReason) : (s.halt r).tick = s.tick := rfl
@[simp] theorem halt_env (r : HaltReason) : (s.halt r).env = s.env := rfl
@[simp] theorem halt_queries (r : HaltReason) : (s.halt r).queries = s.queries := rfl
@[simp] theorem halt_config (r : HaltReason) : (s.halt r).config = s.config := rfl

/-! `setFb` -/

@[simp] theorem setFb_v (f : FrameBuffer) : (s.setFb f).v = s.v := rfl
@[simp] theorem setFb_i (f : FrameBuffer) : (s.setFb f).i = s.i := rfl
@[simp] theorem setFb_pc (f : FrameBuffer) : (s.setFb f).pc = s.pc := rfl
@[simp] theorem setFb_stack (f : FrameBuffer) : (s.setFb f).stack = s.stack := rfl
@[simp] theorem setFb_dt (f : FrameBuffer) : (s.setFb f).dt = s.dt := rfl
@[simp] theorem setFb_st (f : FrameBuffer) : (s.setFb f).st = s.st := rfl
@[simp] theorem setFb_fb (f : FrameBuffer) : (s.setFb f).fb = f := rfl
@[simp] theorem setFb_mem (f : FrameBuffer) : (s.setFb f).mem = s.mem := rfl
@[simp] theorem setFb_mode (f : FrameBuffer) : (s.setFb f).mode = s.mode := rfl
@[simp] theorem setFb_tick (f : FrameBuffer) : (s.setFb f).tick = s.tick := rfl
@[simp] theorem setFb_env (f : FrameBuffer) : (s.setFb f).env = s.env := rfl
@[simp] theorem setFb_queries (f : FrameBuffer) : (s.setFb f).queries = s.queries := rfl
@[simp] theorem setFb_config (f : FrameBuffer) : (s.setFb f).config = s.config := rfl

/-! `storeBytes` -/

@[simp] theorem storeBytes_v (a : Nat) (bs : List Byte) : (s.storeBytes a bs).v = s.v := rfl
@[simp] theorem storeBytes_i (a : Nat) (bs : List Byte) : (s.storeBytes a bs).i = s.i := rfl
@[simp] theorem storeBytes_pc (a : Nat) (bs : List Byte) : (s.storeBytes a bs).pc = s.pc := rfl
@[simp] theorem storeBytes_stack (a : Nat) (bs : List Byte) : (s.storeBytes a bs).stack = s.stack := rfl
@[simp] theorem storeBytes_dt (a : Nat) (bs : List Byte) : (s.storeBytes a bs).dt = s.dt := rfl
@[simp] theorem storeBytes_st (a : Nat) (bs : List Byte) : (s.storeBytes a bs).st = s.st := rfl
@[simp] theorem storeBytes_fb (a : Nat) (bs : List Byte) : (s.storeBytes a bs).fb = s.fb := rfl
@[simp] theorem storeBytes_mem (a : Nat) (bs : List Byte) : (s.storeBytes a bs).mem = Memory.writeBytes s.mem a bs := rfl
@[simp] theorem storeBytes_mode (a : Nat) (bs : List Byte) : (s.storeBytes a bs).mode = s.mode := rfl
@[simp] theorem storeBytes_tick (a : Nat) (bs : List Byte) : (s.storeBytes a bs).tick = s.tick := rfl
@[simp] theorem storeBytes_env (a : Nat) (bs : List Byte) : (s.storeBytes a bs).env = s.env := rfl
@[simp] theorem storeBytes_queries (a : Nat) (bs : List Byte) : (s.storeBytes a bs).queries = s.queries := rfl
@[simp] theorem storeBytes_config (a : Nat) (bs : List Byte) : (s.storeBytes a bs).config = s.config := rfl

/-! `answered` -/

@[simp] theorem answered_v : (s.answered).v = s.v := rfl
@[simp] theorem answered_i : (s.answered).i = s.i := rfl
@[simp] theorem answered_pc : (s.answered).pc = s.pc := rfl
@[simp] theorem answered_stack : (s.answered).stack = s.stack := rfl
@[simp] theorem answered_dt : (s.answered).dt = s.dt := rfl
@[simp] theorem answered_st : (s.answered).st = s.st := rfl
@[simp] theorem answered_fb : (s.answered).fb = s.fb := rfl
@[simp] theorem answered_mem : (s.answered).mem = s.mem := rfl
@[simp] theorem answered_mode : (s.answered).mode = s.mode := rfl
@[simp] theorem answered_tick : (s.answered).tick = s.tick := rfl
@[simp] theorem answered_env : (s.answered).env = s.env.tail := rfl
@[simp] theorem answered_queries : (s.answered).queries = s.queries + 1 := rfl
@[simp] theorem answered_config : (s.answered).config = s.config := rfl

/-! `beginTick` -/

@[simp] theorem beginTick_v : (s.beginTick).v = s.v := rfl
@[simp] theorem beginTick_i : (s.beginTick).i = s.i := rfl
@[simp] theorem beginTick_pc : (s.beginTick).pc = s.pc := rfl
@[simp] theorem beginTick_stack : (s.beginTick).stack = s.stack := rfl
@[simp] theorem beginTick_dt : (s.beginTick).dt = s.dt := rfl
@[simp] theorem beginTick_st : (s.beginTick).st = s.st := rfl
@[simp] theorem beginTick_fb : (s.beginTick).fb = s.fb := rfl
@[simp] theorem beginTick_mem : (s.beginTick).mem = s.mem := rfl
@[simp] theorem beginTick_mode : (s.beginTick).mode = s.mode := rfl
@[simp] theorem beginTick_tick : (s.beginTick).tick = some s.answer.batch := rfl
@[simp] theorem beginTick_env : (s.beginTick).env = s.env.tail := rfl
@[simp] theorem beginTick_queries : (s.beginTick).queries = s.queries + 1 := rfl
@[simp] theorem beginTick_config : (s.beginTick).config = s.config := rfl

/-! `endTick` -/

@[simp] theorem endTick_v : (s.endTick).v = s.v := rfl
@[simp] theorem endTick_i : (s.endTick).i = s.i := rfl
@[simp] theorem endTick_pc : (s.endTick).pc = s.pc := rfl
@[simp] theorem endTick_stack : (s.endTick).stack = s.stack := rfl
@[simp] theorem endTick_dt : (s.endTick).dt = decay s.dt := rfl
@[simp] theorem endTick_st : (s.endTick).st = decay s.st := rfl
@[simp] theorem endTick_fb : (s.endTick).fb = s.fb := rfl
@[simp] theorem endTick_mem : (s.endTick).mem = s.mem := rfl
@[simp] theorem endTick_mode : (s.endTick).mode = s.mode := rfl
@[simp] theorem endTick_tick : (s.endTick).tick = none := rfl
@[simp] theorem endTick_env : (s.endTick).env = s.env := rfl
@[simp] theorem endTick_queries : (s.endTick).queries = s.queries := rfl
@[simp] theorem endTick_config : (s.endTick).config = s.config := rfl

/-! `decayTimers` -/

@[simp] theorem decayTimers_v : (s.decayTimers).v = s.v := rfl
@[simp] theorem decayTimers_i : (s.decayTimers).i = s.i := rfl
@[simp] theorem decayTimers_pc : (s.decayTimers).pc = s.pc := rfl
@[simp] theorem decayTimers_stack : (s.decayTimers).stack = s.stack := rfl
@[simp] theorem decayTimers_dt : (s.decayTimers).dt = decay s.dt := rfl
@[simp] theorem decayTimers_st : (s.decayTimers).st = decay s.st := rfl
@[simp] theorem decayTimers_fb : (s.decayTimers).fb = s.fb := rfl
@[simp] theorem decayTimers_mem : (s.decayTimers).mem = s.mem := rfl
@[simp] theorem decayTimers_mode : (s.decayTimers).mode = s.mode := rfl
@[simp] theorem decayTimers_tick : (s.decayTimers).tick = s.tick := rfl
@[simp] theorem decayTimers_env : (s.decayTimers).env = s.env := rfl
@[simp] theorem decayTimers_queries : (s.decayTimers).queries = s.queries := rfl
@[simp] theorem decayTimers_config : (s.decayTimers).config = s.config := rfl

/-! ## Registers -/

/-- Reading a register after writing one. -/
theorem reg_setReg (x r : Reg) (b : Byte) : (s.setReg x b).reg r = if r = x then b else s.reg r := by
  simp only [State.reg, State.setReg, Vector.getElem_set]
  by_cases h : r = x
  · simp [h]
  · have : x.toNat ≠ r.toNat := fun e => h (BitVec.eq_of_toNat_eq e.symm)
    simp [h, this]

/-- Reading a register after writing the flag. -/
theorem reg_setFlag (c : Bool) (r : Reg) :
    (s.setFlag c).reg r = if r = vf then (if c then 1#8 else 0#8) else s.reg r := reg_setReg s vf r _

/-- The flag and the result: with X = F the result stays (R130). -/
theorem reg_writeFlagged (x r : Reg) (c : Bool) (b : Byte) :
    (s.writeFlagged x c b).reg r = if r = x then b else if r = vf then (if c then 1#8 else 0#8) else s.reg r := by
  show ((s.setFlag c).setReg x b).reg r = _
  rw [reg_setReg, reg_setFlag]

/-- A state is determined by its registers and its other fields. -/
theorem regs_ext {v w : Vector Byte 16} (h : ∀ r : Reg, v[r.toNat]'(r.isLt) = w[r.toNat]'(r.isLt)) : v = w := by
  ext k hk : 1
  simpa [BitVec.toNat_ofNat, Nat.mod_eq_of_lt hk] using h (BitVec.ofNat 4 k)

@[simp] theorem setI_reg (a : Word) (r : Reg) : (s.setI a).reg r = s.reg r := rfl
@[simp] theorem setDt_reg (b : Byte) (r : Reg) : (s.setDt b).reg r = s.reg r := rfl
@[simp] theorem setSt_reg (b : Byte) (r : Reg) : (s.setSt b).reg r = s.reg r := rfl
@[simp] theorem advance_reg (r : Reg) : (s.advance).reg r = s.reg r := rfl
@[simp] theorem skip_reg (r : Reg) : (s.skip).reg r = s.reg r := rfl
@[simp] theorem skipIf_reg (c : Bool) (r : Reg) : (s.skipIf c).reg r = s.reg r := rfl
@[simp] theorem jump_reg (a : Word) (r : Reg) : (s.jump a).reg r = s.reg r := rfl
@[simp] theorem push_reg (a : Word) (r : Reg) : (s.push a).reg r = s.reg r := rfl
@[simp] theorem halt_reg (q : HaltReason) (r : Reg) : (s.halt q).reg r = s.reg r := rfl
@[simp] theorem setFb_reg (f : FrameBuffer) (r : Reg) : (s.setFb f).reg r = s.reg r := rfl
@[simp] theorem storeBytes_reg (a : Nat) (bs : List Byte) (r : Reg) : (s.storeBytes a bs).reg r = s.reg r := rfl
@[simp] theorem answered_reg (r : Reg) : (s.answered).reg r = s.reg r := rfl
@[simp] theorem beginTick_reg (r : Reg) : (s.beginTick).reg r = s.reg r := rfl
@[simp] theorem endTick_reg (r : Reg) : (s.endTick).reg r = s.reg r := rfl
@[simp] theorem decayTimers_reg (r : Reg) : (s.decayTimers).reg r = s.reg r := rfl

/-! ## Memory, as read byte by byte -/

@[simp] theorem setReg_byte (x : Reg) (b : Byte) (a : Nat) : (s.setReg x b).byte a = s.byte a := rfl
@[simp] theorem setFlag_byte (c : Bool) (a : Nat) : (s.setFlag c).byte a = s.byte a := rfl
@[simp] theorem setI_byte (a : Word) (p : Nat) : (s.setI a).byte p = s.byte p := rfl
@[simp] theorem setDt_byte (b : Byte) (a : Nat) : (s.setDt b).byte a = s.byte a := rfl
@[simp] theorem setSt_byte (b : Byte) (a : Nat) : (s.setSt b).byte a = s.byte a := rfl
@[simp] theorem advance_byte (a : Nat) : (s.advance).byte a = s.byte a := rfl
@[simp] theorem skip_byte (a : Nat) : (s.skip).byte a = s.byte a := rfl
@[simp] theorem skipIf_byte (c : Bool) (a : Nat) : (s.skipIf c).byte a = s.byte a := rfl
@[simp] theorem jump_byte (a : Word) (p : Nat) : (s.jump a).byte p = s.byte p := rfl
@[simp] theorem push_byte (a : Word) (p : Nat) : (s.push a).byte p = s.byte p := rfl
@[simp] theorem halt_byte (r : HaltReason) (a : Nat) : (s.halt r).byte a = s.byte a := rfl
@[simp] theorem setFb_byte (f : FrameBuffer) (a : Nat) : (s.setFb f).byte a = s.byte a := rfl
@[simp] theorem answered_byte (a : Nat) : (s.answered).byte a = s.byte a := rfl
@[simp] theorem beginTick_byte (a : Nat) : (s.beginTick).byte a = s.byte a := rfl
@[simp] theorem endTick_byte (a : Nat) : (s.endTick).byte a = s.byte a := rfl
@[simp] theorem decayTimers_byte (a : Nat) : (s.decayTimers).byte a = s.byte a := rfl

end Sys2Proof.Machine
end

