-- ==== Sys2Proof/Laws/Ops.lean ====
section
/-! SUPPORT. One lemma per shared operation, saying all it can do: the range-checked effect, the loads and stores of
several bytes, the blit, the keypad, and the cycle. -/

namespace Sys2Proof.Machine

variable (s : State)

/-! ## The range check (R57) -/

theorem rangeOk_iff (a n : Nat) : rangeOk a n = true ↔ n = 0 ∨ a + n ≤ 4096 := by simp [rangeOk]

/-- A checked effect is the effect, or the halt with nothing else changed. -/
theorem checked_cases (n : Nat) (e : State) :
    (rangeOk s.i.toNat n = true ∧ s.checked n e = e) ∨
    (rangeOk s.i.toNat n = false ∧ s.checked n e = s.halt .addressOutOfRange) := by
  unfold State.checked
  cases rangeOk s.i.toNat n <;> simp

theorem checked_of_le {n : Nat} (h : s.i.toNat + n ≤ 4096) (e : State) : s.checked n e = e := by
  simp [State.checked, rangeOk, h]

theorem checked_of_gt {n : Nat} (h : s.i.toNat + n > 4096) (hn : n ≠ 0) (e : State) :
    s.checked n e = s.halt .addressOutOfRange := by
  simp [State.checked, rangeOk, hn, Nat.not_le.2 h]

/-! ## Stores and loads of several bytes -/

theorem storeBytes_byte_other {a c : Nat} {bs : List Byte} (h : ¬(a ≤ c ∧ c < a + bs.length)) :
    (s.storeBytes a bs).byte c = s.byte c := Memory.read_writeBytes_other _ h

theorem storeBytes_byte_at (hm : Memory.wf s.mem) (a : Nat) {bs : List Byte} {k : Nat} (h : k < bs.length) :
    (s.storeBytes a bs).byte (a + k) = bs[k] := Memory.read_writeBytes_at hm.1 a h

@[simp] theorem bcdDigits_length (b : Byte) : (bcdDigits b).length = 3 := rfl

@[simp] theorem firstRegs_length (n : Nat) : (s.firstRegs n).length = n := by simp [State.firstRegs]

theorem firstRegs_getElem {n k : Nat} (h : k < (s.firstRegs n).length) :
    (s.firstRegs n)[k] = s.reg (BitVec.ofNat 4 k) := by simp [State.firstRegs]

/-- A multiple load changes the register file only. -/
theorem loadRegs_frame (a n : Nat) : s.loadRegs a n = { s with v := (s.loadRegs a n).v } := by
  induction n with
  | zero => rfl
  | succ n ih =>
    rw [State.loadRegs, ih]; rfl

/-- A multiple load gives register r the byte at its place, and leaves the registers from n on alone. -/
theorem loadRegs_reg (a : Nat) {n : Nat} (hn : n ≤ 16) (r : Reg) :
    (s.loadRegs a n).reg r = if r.toNat < n then s.byte (a + r.toNat) else s.reg r := by
  induction n with
  | zero => simp [State.loadRegs]
  | succ n ih =>
    have hr : r = BitVec.ofNat 4 n ↔ r.toNat = n := by
      rw [← BitVec.toNat_inj, BitVec.toNat_ofNat, Nat.mod_eq_of_lt (by omega)]
    rw [State.loadRegs, reg_setReg, ih (by omega)]
    by_cases h : r.toNat = n
    · simp [hr.2 h, Nat.mod_eq_of_lt (show n < 16 by omega)]
    · simp only [hr, h, if_false]
      by_cases h' : r.toNat < n
      · simp [h', Nat.lt_succ_of_lt h']
      · simp [h', show ¬ r.toNat < n + 1 by omega]

@[simp] theorem readBytes_length (m : List Host.Cell) (a n : Nat) : (Memory.readBytes m a n).length = n := by
  simp [Memory.readBytes]

theorem readBytes_getElem (m : List Host.Cell) (a n : Nat) {k : Nat} (h : k < (Memory.readBytes m a n).length) :
    (Memory.readBytes m a n)[k] = Memory.read m (a + k) := by simp [Memory.readBytes]

/-! ## The framebuffer and the blit (R171, R172) -/

theorem pixel_setPixel (fb : FrameBuffer) (x x' : Fin 64) (y y' : Fin 32) (b : Bool) :
    (fb.setPixel x y b).pixel x' y' = if x' = x ∧ y' = y then b else fb.pixel x' y' := by
  unfold FrameBuffer.pixel FrameBuffer.setPixel
  by_cases hy : y' = y
  · subst hy
    by_cases hx : x' = x
    · subst hx; simp
    · have : x.val ≠ x'.val := fun e => hx (Fin.ext e.symm)
      simp [hx, this]
  · have : y.val ≠ y'.val := fun e => hy (Fin.ext e.symm)
    simp [hy, this]

theorem pixel_blank (x : Fin 64) (y : Fin 32) : FrameBuffer.blank.pixel x y = false := by
  simp [FrameBuffer.pixel, FrameBuffer.blank]

/-- A framebuffer is determined by its pixels. -/
theorem pixel_ext {f g : FrameBuffer} (h : ∀ x y, f.pixel x y = g.pixel x y) : f = g := by
  ext y hy x hx : 2
  exact h ⟨x, hx⟩ ⟨y, hy⟩

/-! ## The keypad (R30) -/

/-- A reported key is down. -/
theorem keyDown_of_anyKey {keys : BitVec 16} {pick k : Nibble} (h : anyKey keys pick = some k) :
    keyDown keys k = true := List.find?_some h

/-- The preferred key is reported when it is down. -/
theorem anyKey_pick {keys : BitVec 16} {k : Nibble} (h : keyDown keys k = true) : anyKey keys k = some k := by
  simp [anyKey, List.range_succ_eq_map, h]

/-! ## CALL and RET (R110, R112, R202, R203) -/

theorem exec_call_of_lt (nnn : Addr12) {s : State} (h : s.stack.length < 16) :
    exec (.call nnn) s = .next ((s.push (s.pc + 2#16)).jump (addrOfImm nnn)) := congrArg Host.Outcome.next (if_pos h)

theorem exec_call_of_full (nnn : Addr12) {s : State} (h : 16 ≤ s.stack.length) :
    exec (.call nnn) s = .next (s.halt .stackOverflow) := congrArg Host.Outcome.next (if_neg (Nat.not_lt.2 h))

theorem exec_ret_of_cons {a : Word} {rest : List Word} {s : State} (h : s.stack = a :: rest) :
    exec .ret s = .next { s with stack := rest, pc := a } := by simp [exec, execRet, h]

theorem exec_ret_of_nil {s : State} (h : s.stack = []) : exec .ret s = .next (s.halt .stackUnderflow) := by
  simp [exec, execRet, h]

/-! ## The cycle (R91) -/

theorem cycle_of_halted {s : State} {r : HaltReason} (hm : s.mode = .halted r) : cycle s = .next s := by
  simp [cycle, hm]

theorem cycle_of_awaitingKey {s : State} {x : Reg} (hm : s.mode = .awaitingKey x) :
    cycle s = .next (s.awaitStep x) := by simp [cycle, hm]

theorem cycle_of_pc_high {s : State} (hm : s.mode = .running) (hp : s.pc.toNat > 0xFFE) :
    cycle s = .next (s.halt .addressOutOfRange) := by simp [cycle, hm, hp]

theorem cycle_of_unsupported {s : State} (hm : s.mode = .running) (hp : s.pc.toNat ≤ 0xFFE)
    (hd : ∀ i, decode s.fetchWord ≠ .op i) : cycle s = .next (s.halt .unsupportedOpcode) := by
  simp only [cycle, hm, Nat.not_lt.2 hp, if_false]
  cases h : decode s.fetchWord with
  | op i => exact absurd h (hd i)
  | unsupported => rfl
  | truncated => rfl

/-- In the Running mode, at an address that can be fetched from, a cycle executes the decoded instruction. -/
theorem cycle_of_op {s : State} {i : Instr} (hm : s.mode = .running) (hp : s.pc.toNat ≤ 0xFFE)
    (hd : decode s.fetchWord = .op i) : cycle s = exec i s := by
  simp [cycle, hm, hd, Nat.not_lt.2 hp]

/-- Everything a cycle can be. -/
theorem cycle_cases (s : State) :
    (∃ r, s.mode = .halted r ∧ cycle s = .next s) ∨
    (∃ x, s.mode = .awaitingKey x ∧ cycle s = .next (s.awaitStep x)) ∨
    (s.mode = .running ∧ s.pc.toNat > 0xFFE ∧ cycle s = .next (s.halt .addressOutOfRange)) ∨
    (s.mode = .running ∧ s.pc.toNat ≤ 0xFFE ∧ (∀ i, decode s.fetchWord ≠ .op i) ∧
      cycle s = .next (s.halt .unsupportedOpcode)) ∨
    (∃ i, s.mode = .running ∧ s.pc.toNat ≤ 0xFFE ∧ decode s.fetchWord = .op i ∧ cycle s = exec i s) := by
  cases hm : s.mode with
  | halted r => exact .inl ⟨r, rfl, cycle_of_halted hm⟩
  | awaitingKey x => exact .inr (.inl ⟨x, rfl, cycle_of_awaitingKey hm⟩)
  | running =>
    by_cases hp : s.pc.toNat > 0xFFE
    · exact .inr (.inr (.inl ⟨rfl, hp, cycle_of_pc_high hm hp⟩))
    · by_cases hd : ∃ i, decode s.fetchWord = .op i
      · obtain ⟨i, hd⟩ := hd
        exact .inr (.inr (.inr (.inr ⟨i, rfl, by omega, hd, cycle_of_op hm (by omega) hd⟩)))
      · have hd' : ∀ i, decode s.fetchWord ≠ .op i := fun i h => hd ⟨i, h⟩
        exact .inr (.inr (.inr (.inl ⟨rfl, by omega, hd', cycle_of_unsupported hm (by omega) hd'⟩)))

end Sys2Proof.Machine
end

