-- ==== Sys2Proof/Laws/PerInstr.lean ====
section
/-! SUPPORT. For every instruction: its encoding is selected by the row of R74 that bears its mnemonic, so no operand
reaches into a literal digit of the pattern (R72, R77). -/

namespace Sys2Proof.Laws.Encoding

/-- The instruction's word matches the row of the opcode table that bears its mnemonic. -/
def Statement (i : Instr) : Prop := ∃ r ∈ opcodeTable, r.mnemonic = i.mnemonic ∧ encode i &&& r.mask = r.code

/-- A row of the table, given by its place, is a witness. -/
theorem of_row {i : Instr} (k : Fin 34) (hm : (opcodeTable[k.val]'(k.isLt)).mnemonic = i.mnemonic)
    (hc : encode i &&& (opcodeTable[k.val]'(k.isLt)).mask = (opcodeTable[k.val]'(k.isLt)).code) : Statement i :=
  ⟨_, List.getElem_mem _, hm, hc⟩

theorem cls : Statement (.cls) :=
  of_row 0 rfl (rfl)

theorem ret : Statement (.ret) :=
  of_row 1 rfl (rfl)

theorem jp (nnn : Addr12) : Statement (.jp nnn) :=
  of_row 2 rfl ((mask_F000 0x1#4 _).2 (family_nnn _ _))

theorem call (nnn : Addr12) : Statement (.call nnn) :=
  of_row 3 rfl ((mask_F000 0x2#4 _).2 (family_nnn _ _))

theorem seImm (x : Reg) (nn : Byte) : Statement (.seImm x nn) :=
  of_row 4 rfl ((mask_F000 0x3#4 _).2 (family_xnn _ _ _))

theorem sneImm (x : Reg) (nn : Byte) : Statement (.sneImm x nn) :=
  of_row 5 rfl ((mask_F000 0x4#4 _).2 (family_xnn _ _ _))

theorem seReg (x y : Reg) : Statement (.seReg x y) :=
  of_row 6 rfl ((mask_F00F 0x5#4 0x0#4 _).2 ⟨family_xyn _ _ _ _, fieldN_xyn _ _ _ _⟩)

theorem ldImm (x : Reg) (nn : Byte) : Statement (.ldImm x nn) :=
  of_row 7 rfl ((mask_F000 0x6#4 _).2 (family_xnn _ _ _))

theorem addImm (x : Reg) (nn : Byte) : Statement (.addImm x nn) :=
  of_row 8 rfl ((mask_F000 0x7#4 _).2 (family_xnn _ _ _))

theorem ldReg (x y : Reg) : Statement (.ldReg x y) :=
  of_row 9 rfl ((mask_F00F 0x8#4 0x0#4 _).2 ⟨family_xyn _ _ _ _, fieldN_xyn _ _ _ _⟩)

theorem orReg (x y : Reg) : Statement (.orReg x y) :=
  of_row 10 rfl ((mask_F00F 0x8#4 0x1#4 _).2 ⟨family_xyn _ _ _ _, fieldN_xyn _ _ _ _⟩)

theorem andReg (x y : Reg) : Statement (.andReg x y) :=
  of_row 11 rfl ((mask_F00F 0x8#4 0x2#4 _).2 ⟨family_xyn _ _ _ _, fieldN_xyn _ _ _ _⟩)

theorem xorReg (x y : Reg) : Statement (.xorReg x y) :=
  of_row 12 rfl ((mask_F00F 0x8#4 0x3#4 _).2 ⟨family_xyn _ _ _ _, fieldN_xyn _ _ _ _⟩)

theorem addReg (x y : Reg) : Statement (.addReg x y) :=
  of_row 13 rfl ((mask_F00F 0x8#4 0x4#4 _).2 ⟨family_xyn _ _ _ _, fieldN_xyn _ _ _ _⟩)

theorem sub (x y : Reg) : Statement (.sub x y) :=
  of_row 14 rfl ((mask_F00F 0x8#4 0x5#4 _).2 ⟨family_xyn _ _ _ _, fieldN_xyn _ _ _ _⟩)

theorem shr (x y : Reg) : Statement (.shr x y) :=
  of_row 15 rfl ((mask_F00F 0x8#4 0x6#4 _).2 ⟨family_xyn _ _ _ _, fieldN_xyn _ _ _ _⟩)

theorem subn (x y : Reg) : Statement (.subn x y) :=
  of_row 16 rfl ((mask_F00F 0x8#4 0x7#4 _).2 ⟨family_xyn _ _ _ _, fieldN_xyn _ _ _ _⟩)

theorem shl (x y : Reg) : Statement (.shl x y) :=
  of_row 17 rfl ((mask_F00F 0x8#4 0xE#4 _).2 ⟨family_xyn _ _ _ _, fieldN_xyn _ _ _ _⟩)

theorem sneReg (x y : Reg) : Statement (.sneReg x y) :=
  of_row 18 rfl ((mask_F00F 0x9#4 0x0#4 _).2 ⟨family_xyn _ _ _ _, fieldN_xyn _ _ _ _⟩)

theorem ldI (nnn : Addr12) : Statement (.ldI nnn) :=
  of_row 19 rfl ((mask_F000 0xA#4 _).2 (family_nnn _ _))

theorem jpV0 (nnn : Addr12) : Statement (.jpV0 nnn) :=
  of_row 20 rfl ((mask_F000 0xB#4 _).2 (family_nnn _ _))

theorem rnd (x : Reg) (nn : Byte) : Statement (.rnd x nn) :=
  of_row 21 rfl ((mask_F000 0xC#4 _).2 (family_xnn _ _ _))

theorem drw (x y : Reg) (n : Nibble) : Statement (.drw x y n) :=
  of_row 22 rfl ((mask_F000 0xD#4 _).2 (family_xyn _ _ _ _))

theorem skp (x : Reg) : Statement (.skp x) :=
  of_row 23 rfl ((mask_F0FF 0xE#4 0x9E#8 _).2 ⟨family_xnn _ _ _, fieldNN_xnn _ _ _⟩)

theorem sknp (x : Reg) : Statement (.sknp x) :=
  of_row 24 rfl ((mask_F0FF 0xE#4 0xA1#8 _).2 ⟨family_xnn _ _ _, fieldNN_xnn _ _ _⟩)

theorem ldFromDt (x : Reg) : Statement (.ldFromDt x) :=
  of_row 25 rfl ((mask_F0FF 0xF#4 0x07#8 _).2 ⟨family_xnn _ _ _, fieldNN_xnn _ _ _⟩)

theorem ldKey (x : Reg) : Statement (.ldKey x) :=
  of_row 26 rfl ((mask_F0FF 0xF#4 0x0A#8 _).2 ⟨family_xnn _ _ _, fieldNN_xnn _ _ _⟩)

theorem ldDt (x : Reg) : Statement (.ldDt x) :=
  of_row 27 rfl ((mask_F0FF 0xF#4 0x15#8 _).2 ⟨family_xnn _ _ _, fieldNN_xnn _ _ _⟩)

theorem ldSt (x : Reg) : Statement (.ldSt x) :=
  of_row 28 rfl ((mask_F0FF 0xF#4 0x18#8 _).2 ⟨family_xnn _ _ _, fieldNN_xnn _ _ _⟩)

theorem addI (x : Reg) : Statement (.addI x) :=
  of_row 29 rfl ((mask_F0FF 0xF#4 0x1E#8 _).2 ⟨family_xnn _ _ _, fieldNN_xnn _ _ _⟩)

theorem ldGlyph (x : Reg) : Statement (.ldGlyph x) :=
  of_row 30 rfl ((mask_F0FF 0xF#4 0x29#8 _).2 ⟨family_xnn _ _ _, fieldNN_xnn _ _ _⟩)

theorem bcd (x : Reg) : Statement (.bcd x) :=
  of_row 31 rfl ((mask_F0FF 0xF#4 0x33#8 _).2 ⟨family_xnn _ _ _, fieldNN_xnn _ _ _⟩)

theorem store (x : Reg) : Statement (.store x) :=
  of_row 32 rfl ((mask_F0FF 0xF#4 0x55#8 _).2 ⟨family_xnn _ _ _, fieldNN_xnn _ _ _⟩)

theorem load (x : Reg) : Statement (.load x) :=
  of_row 33 rfl ((mask_F0FF 0xF#4 0x65#8 _).2 ⟨family_xnn _ _ _, fieldNN_xnn _ _ _⟩)

end Sys2Proof.Laws.Encoding
end

