-- ==== Sys2Proof/Laws/Step.lean ====
section
/-! SUPPORT. One lemma for each way a step goes, and the run of the machine behind Host/Core.lean step by step. -/

namespace Sys2Proof.Machine

theorem step_of_none {s : State} (h : s.tick = none) : step s = .next s.beginTick := by simp [step, h]

theorem step_of_zero {s : State} (h : s.tick = some 0) : step s = .next s.endTick := by simp [step, h]

theorem step_of_succ {s : State} {n : Nat} (h : s.tick = some (n + 1)) : step s = cycle { s with tick := some n } := by
  simp [step, h]

/-- Everything a step can be. -/
theorem step_cases (s : State) :
    (s.tick = none ∧ step s = .next s.beginTick) ∨ (s.tick = some 0 ∧ step s = .next s.endTick) ∨
    ∃ n, s.tick = some (n + 1) ∧ step s = cycle { s with tick := some n } := by
  cases h : s.tick with
  | none => exact .inl ⟨rfl, step_of_none h⟩
  | some n =>
    cases n with
    | zero => exact .inr (.inl ⟨rfl, step_of_zero h⟩)
    | succ n => exact .inr (.inr ⟨n, rfl, step_of_succ h⟩)

theorem run_zero (s : State) : Host.Core.run Sys2Proof.core 0 s = .next s := rfl

theorem run_succ {s t : State} (k : Nat) (h : step s = .next t) :
    Host.Core.run Sys2Proof.core (k + 1) s = Host.Core.run Sys2Proof.core k t := by
  have h' : Host.Core.step Sys2Proof.core s = .next t := h
  simp only [Host.Core.run, h']

end Sys2Proof.Machine
end

