-- ==== Sys2Proof/Tests/Slice0.lean ====
section
/-! SUPPORT. Tests of the model. Expected values come from 95_test_vectors.md, whose id each name or comment gives, or
by hand from the rule named. The last part gives, for every obligation with hypotheses, a state that meets them. -/

namespace Sys2Proof.Tests

open Sys2Proof.Machine

/-! ## Helpers -/

/-- The outcome is a next state with the property. -/
def next (o : Host.Outcome State Fault Refusal) (p : State → Bool) : Bool :=
  match o with
  | .next t => p t
  | .fault _ => false
  | .refused _ => false

/-- One step of `s` with the word placed where it fetches: one cycle (R91). -/
def ran (s : State) (w : Nat) (p : State → Bool) : Bool := next (step (s.withFetchWord 16 w)) p

/-- The state after reset with PC at an address. -/
def pcAt (a : Word) : State := { State.reset with pc := a }

/-- The state after reset with some registers set. -/
def regs (l : List (Reg × Byte)) : State := l.foldl (fun s p => s.setReg p.1 p.2) State.reset

/-- The state after reset with I set. -/
def index (a : Word) : State := State.reset.setI a

/-- The state with `n` entries on its stack. -/
def deep (n : Nat) : State := { State.reset with stack := List.replicate n 0x300#16 }

/-- An environment whose next answer is a key vector and a preferred key. -/
def keysDown (s : State) (keys : BitVec 16) (pick : Nibble) : State :=
  { s with env := [{ keys := keys, pick := pick, rand := 0, batch := 0 }] }

/-- An environment whose next random byte is `r`. -/
def draws (s : State) (r : Byte) : State := { s with env := [{ keys := 0, pick := 0, rand := r, batch := 0 }] }

/-- The state inside a tick with `n` cycles left. -/
def inTick (s : State) (n : Nat) : State := { s with tick := some n }

/-- The framebuffer with some pixels lit. -/
def lighted (l : List (Fin 64 × Fin 32)) : FrameBuffer :=
  l.foldl (fun fb p => fb.setPixel p.1 p.2 true) FrameBuffer.blank

/-- Sixteen bytes A0, A1, ..., AF in V0..VF (M-17). -/
def countedRegs : State :=
  regs ((List.range 16).map fun k => (BitVec.ofNat 4 k, BitVec.ofNat 8 (0xA0 + k)))

/-! ## Well-formedness (R81, R234) -/

theorem test_image_of_3584_bytes_fits : imageFits (List.replicate 3584 0#8) = true := by
  rw [imageFits, List.length_replicate]; decide

theorem test_image_of_3585_bytes_is_refused : imageFits (List.replicate 3585 0#8) = false := by
  rw [imageFits, List.length_replicate]; decide

theorem test_empty_image_fits : imageFits [] = true := by decide

/-! ## Decoding: a word written out for every constructor (R72, R74) -/

theorem test_decode_families_0_to_7 :
    decode 0b0000000011100000#16 = .op .cls ∧
    decode 0b0000000011101110#16 = .op .ret ∧
    decode 0b0001001000000100#16 = .op (.jp 0x204#12) ∧
    decode 0b0010101010111100#16 = .op (.call 0xABC#12) ∧
    decode 0b0011110001111111#16 = .op (.seImm 0xC#4 0x7F#8) ∧
    decode 0b0100001000000111#16 = .op (.sneImm 0x2#4 0x07#8) ∧
    decode 0b0101001101000000#16 = .op (.seReg 0x3#4 0x4#4) ∧
    decode 0b0110101000101100#16 = .op (.ldImm 0xA#4 0x2C#8) ∧
    decode 0b0111000100100000#16 = .op (.addImm 0x1#4 0x20#8) := by decide

theorem test_decode_family_8 :
    decode 0b1000000100100000#16 = .op (.ldReg 0x1#4 0x2#4) ∧
    decode 0b1000000100100001#16 = .op (.orReg 0x1#4 0x2#4) ∧
    decode 0b1000000100100010#16 = .op (.andReg 0x1#4 0x2#4) ∧
    decode 0b1000000100100011#16 = .op (.xorReg 0x1#4 0x2#4) ∧
    decode 0b1000101010110100#16 = .op (.addReg 0xA#4 0xB#4) ∧
    decode 0b1000000100100101#16 = .op (.sub 0x1#4 0x2#4) ∧
    decode 0b1000000100100110#16 = .op (.shr 0x1#4 0x2#4) ∧
    decode 0b1000000100100111#16 = .op (.subn 0x1#4 0x2#4) ∧
    decode 0b1000000100101110#16 = .op (.shl 0x1#4 0x2#4) := by decide

theorem test_decode_families_9_to_E :
    decode 0b1001001101000000#16 = .op (.sneReg 0x3#4 0x4#4) ∧
    decode 0b1010001100000000#16 = .op (.ldI 0x300#12) ∧
    decode 0b1011001011111111#16 = .op (.jpV0 0x2FF#12) ∧
    decode 0b1100001100001111#16 = .op (.rnd 0x3#4 0x0F#8) ∧
    decode 0b1101011110100101#16 = .op (.drw 0x7#4 0xA#4 0x5#4) ∧
    decode 0b1110010110011110#16 = .op (.skp 0x5#4) ∧
    decode 0b1110010110100001#16 = .op (.sknp 0x5#4) := by decide

theorem test_decode_family_F :
    decode 0b1111000100000111#16 = .op (.ldFromDt 0x1#4) ∧
    decode 0b1111001100001010#16 = .op (.ldKey 0x3#4) ∧
    decode 0b1111000000010101#16 = .op (.ldDt 0x0#4) ∧
    decode 0b1111000000011000#16 = .op (.ldSt 0x0#4) ∧
    decode 0b1111001000011110#16 = .op (.addI 0x2#4) ∧
    decode 0b1111001000101001#16 = .op (.ldGlyph 0x2#4) ∧
    decode 0b1111000100110011#16 = .op (.bcd 0x1#4) ∧
    decode 0b1111001101010101#16 = .op (.store 0x3#4) ∧
    decode 0b1111100101100101#16 = .op (.load 0x9#4) := by decide

/-- The words of 95_test_vectors.md 2.1 that are Unsupported. -/
theorem test_unsupported_words :
    ([0x0000#16, 0x0123#16, 0x00E1#16, 0x00EF#16, 0x01E0#16, 0x5121#16, 0x9121#16, 0x8128#16, 0x812F#16, 0xE19F#16,
      0xE1A2#16, 0xF100#16, 0xF175#16, 0xF1FF#16, 0xFFFF#16].map decode).all (· == .unsupported) = true := by decide

/-- The byte at the lower address is the high-order byte (95_test_vectors.md 2.1: bytes 8A B4). -/
theorem test_decode_bytes : decodeBytes [0x8A#8, 0xB4#8, 0x12#8] = (.op (.addReg 0xA#4 0xB#4), [0x12#8]) := by decide

theorem test_decode_bytes_truncated : decodeBytes [0x8A#8] = (.truncated, [0x8A#8]) := by decide

theorem test_decode_table_word : decodeTableWord 16 0x8AB4 = some (.addReg 0xA#4 0xB#4) := by decide

theorem test_decode_table_word_unsupported : decodeTableWord 16 0x8128 = none := by decide

/-! ## Control flow -/

theorem test_C1_jp : ran (pcAt 0x20A#16) 0x1204 (fun t => t.pc == 0x204#16) := by decide

theorem test_C3_jp_to_fff : ran State.reset 0x1FFF (fun t => t.pc == 0xFFF#16 && t.mode == .running) := by decide

theorem test_C4_call : ran (pcAt 0x204#16) 0x220A (fun t => t.stack == [0x206#16] && t.pc == 0x20A#16) := by decide

theorem test_C6_call_overflow : ran (deep 16) 0x2300 (fun t =>
    t.mode == .halted .stackOverflow && t.sp == 16 && t.pc == 0x200#16) := by decide

theorem test_C7_ret : ran { pcAt 0x20C#16 with stack := [0x206#16] } 0x00EE (fun t => t.pc == 0x206#16 && t.sp == 0) := by
  decide

theorem test_C8_ret_underflow : ran State.reset 0x00EE (fun t =>
    t.mode == .halted .stackUnderflow && t.pc == 0x200#16) := by decide

theorem test_C9_se_imm : ran (pcAt 0x208#16) 0x3100 (fun t => t.pc == 0x20C#16) := by decide

theorem test_C10_se_imm : ran ((pcAt 0x208#16).setReg 1#4 4#8) 0x3100 (fun t => t.pc == 0x20A#16) := by decide

theorem test_C12_sne_imm : ran ((pcAt 0x300#16).setReg 2#4 7#8) 0x4207 (fun t => t.pc == 0x302#16) := by decide

theorem test_C13_sne_imm : ran ((pcAt 0x300#16).setReg 2#4 8#8) 0x4207 (fun t => t.pc == 0x304#16) := by decide

theorem test_C14_se_reg : ran (regs [(3, 9), (4, 9)]) 0x5340 (fun t => t.pc == 0x204#16) := by decide

theorem test_se_reg_differ : ran (regs [(3, 9), (4, 8)]) 0x5340 (fun t => t.pc == 0x202#16) := by decide

theorem test_C16_sne_reg : ran (regs [(3, 9), (4, 9)]) 0x9340 (fun t => t.pc == 0x202#16) := by decide

theorem test_C17_sne_reg : ran (regs [(3, 9), (4, 8)]) 0x9340 (fun t => t.pc == 0x204#16) := by decide

theorem test_C20_jp_v0 : ran (regs [(0, 2)]) 0xB2FF (fun t => t.pc == 0x301#16) := by decide

theorem test_C21_jp_v0_no_wrap : ran (regs [(0, 0xFF)]) 0xBFFF (fun t => t.pc == 0x10FE#16 && t.mode == .running) := by
  decide

theorem test_C24_fetch_at_fff : next (step (inTick (pcAt 0xFFF#16) 1)) (fun t =>
    t.mode == .halted .addressOutOfRange && t.pc == 0xFFF#16) := by decide

theorem test_C25_fetch_at_ffe : ran (pcAt 0xFFE#16) 0x1200 (fun t => t.pc == 0x200#16 && t.mode == .running) := by decide

/-! ## Loads, arithmetic, logic, shifts -/

theorem test_A1_ld_imm : ran State.reset 0x6A2C (fun t => t.reg 0xA#4 == 0x2C#8 && t.pc == 0x202#16) := by decide

theorem test_A2_ld_imm_vf : ran State.reset 0x6FAB (fun t => t.reg vf == 0xAB#8) := by decide

theorem test_A3_add_imm : ran (regs [(1, 0xFF)]) 0x7101 (fun t => t.reg 1#4 == 0 && t.reg vf == 0) := by decide

theorem test_A6_add_imm_vf : ran (regs [(0xF, 0xFF)]) 0x7F02 (fun t => t.reg vf == 1) := by decide

theorem test_A7_ld_reg : ran (regs [(2, 0x55)]) 0x8120 (fun t => t.reg 1#4 == 0x55#8 && t.reg 2#4 == 0x55#8) := by decide

theorem test_A8_or : ran (regs [(1, 0xC0), (2, 0x0F)]) 0x8121 (fun t => t.reg 1#4 == 0xCF#8) := by decide

theorem test_A9_and : ran (regs [(1, 0xF3), (2, 0x3C)]) 0x8122 (fun t => t.reg 1#4 == 0x30#8) := by decide

theorem test_A10_xor : ran (regs [(1, 0xF3), (2, 0x3C)]) 0x8123 (fun t => t.reg 1#4 == 0xCF#8) := by decide

theorem test_A11_xor_keeps_vf : ran (regs [(1, 0xAA), (0xF, 1)]) 0x8113 (fun t => t.reg 1#4 == 0 && t.reg vf == 1) := by
  decide

theorem test_S1a_add : ran (regs [(1, 250), (2, 10)]) 0x8124 (fun t => t.reg 1#4 == 4 && t.reg vf == 1) := by decide

theorem test_A16_add_into_vf : ran (regs [(0xF, 200), (2, 100)]) 0x8F24 (fun t => t.reg vf == 44) := by decide

theorem test_S2a_sub : ran (regs [(1, 5), (2, 10)]) 0x8125 (fun t => t.reg 1#4 == 251 && t.reg vf == 0) := by decide

theorem test_A19_sub_equal : ran (regs [(1, 7), (2, 7)]) 0x8125 (fun t => t.reg 1#4 == 0 && t.reg vf == 1) := by decide

theorem test_A24_subn : ran (regs [(1, 5), (2, 10)]) 0x8127 (fun t =>
    t.reg 1#4 == 5 && t.reg vf == 1 && t.reg 2#4 == 10) := by decide

theorem test_A25_subn : ran (regs [(1, 10), (2, 5)]) 0x8127 (fun t => t.reg 1#4 == 251 && t.reg vf == 0) := by decide

theorem test_A29_shr : ran (regs [(1, 0xFF), (2, 6)]) 0x8126 (fun t => t.reg 1#4 == 0x7F#8 && t.reg vf == 1) := by decide

theorem test_A37_shr_quirk : ran { regs [(1, 0xFF), (2, 6)] with config := { quirkShiftVy := true, quirkLoadStoreInc := false } }
    0x8126 (fun t => t.reg 1#4 == 3 && t.reg vf == 0 && t.reg 2#4 == 6) := by decide

theorem test_S3b_shl : ran (regs [(1, 129)]) 0x812E (fun t => t.reg 1#4 == 2 && t.reg vf == 1) := by decide

theorem test_A38_shl_quirk : ran { regs [(1, 0), (2, 0xC1)] with config := { quirkShiftVy := true, quirkLoadStoreInc := false } }
    0x812E (fun t => t.reg 1#4 == 0x82#8 && t.reg vf == 1 && t.reg 2#4 == 0xC1#8) := by decide

/-! ## Index register and memory -/

theorem test_M2_ld_i : ran State.reset 0xAFFF (fun t => t.i == 0x0FFF#16) := by decide

theorem test_M4_add_i : ran ((index 0x0FFF#16).setReg 1#4 1#8) 0xF11E (fun t =>
    t.i == 0x1000#16 && t.reg vf == 0 && t.mode == .running) := by decide

theorem test_M5_add_i_wraps : ran ((index 0xFFFF#16).setReg 1#4 1#8) 0xF11E (fun t => t.i == 0) := by decide

theorem test_M8_glyph : ran (regs [(1, 0x0F)]) 0xF129 (fun t => t.i == 0x004B#16) := by decide

theorem test_M9_glyph_low_nibble : ran (regs [(1, 0x1A)]) 0xF129 (fun t => t.i == 0x0032#16) := by decide

theorem test_S6_bcd : ran ((index 0x300#16).setReg 1#4 157#8) 0xF133 (fun t =>
    t.byte 0x300 == 1 && t.byte 0x301 == 5 && t.byte 0x302 == 7 && t.byte 0x303 == 0) := by decide

theorem test_M12_bcd_out_of_range : ran ((index 0xFFE#16).setReg 1#4 255#8) 0xF133 (fun t =>
    t.mode == .halted .addressOutOfRange && t.pc == 0x200#16 && t.byte 0xFFE == 0 && t.byte 0xFFF == 0) := by decide

theorem test_M17_store : ran (countedRegs.setI 0xFF0#16) 0xFF55 (fun t =>
    t.byte 0xFF0 == 0xA0#8 && t.byte 0xFFF == 0xAF#8 && t.i == 0xFF0#16 && t.mode == .running) := by decide

theorem test_M14_store_quirk : ran { (index 0x300#16).setReg 3#4 0x44#8 with
    config := { quirkShiftVy := false, quirkLoadStoreInc := true } } 0xF355 (fun t =>
      t.byte 0x303 == 0x44#8 && t.i == 0x304#16) := by decide

theorem test_M21_load : ran State.reset 0xFF65 (fun t =>
    t.reg 0#4 == 0xF0#8 && t.reg 5#4 == 0x20#8 && t.reg 0xA#4 == 0xF0#8 && t.reg vf == 0xF0#8 && t.i == 0) := by decide

theorem test_M22_load_out_of_range : ran ((regs [(0, 9), (1, 9)]).setI 0xFFF#16) 0xF165 (fun t =>
    t.mode == .halted .addressOutOfRange && t.reg 0#4 == 9 && t.reg 1#4 == 9) := by decide

/-! ## Display -/

theorem test_D12_cls : ran { (regs [(0xF, 1), (3, 7)]).setI 0x123#16 with fb := lighted [(3, 3)] } 0x00E0 (fun t =>
    !t.fb.pixel 3 3 && t.reg vf == 1 && t.reg 3#4 == 7 && t.i == 0x123#16) := by decide

theorem test_D4_drw_wraps : ran ((regs [(0, 0), (1, 31)]).setI 0x005#16) 0xD015 (fun t =>
    t.fb.pixel 2 31 && !t.fb.pixel 1 31 && t.fb.pixel 1 0 && t.fb.pixel 2 0 && !t.fb.pixel 3 0 && t.fb.pixel 2 1 &&
      t.fb.pixel 1 3 && t.fb.pixel 3 3 && t.reg vf == 0) := by decide

theorem test_D5_drw_collides : ran { (index 0x300#16).storeBytes 0x300 [0x81#8] with fb := lighted [(0, 0), (7, 0)] }
    0xD011 (fun t => !t.fb.pixel 0 0 && !t.fb.pixel 1 0 && !t.fb.pixel 7 0 && t.reg vf == 1) := by decide

/-! ## Timers, keys, random -/

theorem test_T1_ld_from_dt : ran (State.reset.setDt 3) 0xF107 (fun t => t.reg 1#4 == 3 && t.dt == 3) := by decide

theorem test_ld_dt : ran (regs [(0, 5)]) 0xF015 (fun t => t.dt == 5 && t.st == 0) := by decide

theorem test_ld_st : ran (regs [(0, 0x1E)]) 0xF018 (fun t => t.st == 30 && t.dt == 0) := by decide

theorem test_T6_skp : ran (keysDown ((pcAt 0x240#16).setReg 5#4 0x0A#8) 0x0400#16 0) 0xE59E (fun t =>
    t.pc == 0x244#16) := by decide

theorem test_T8_skp_low_nibble : ran (keysDown ((pcAt 0x240#16).setReg 5#4 0x1A#8) 0x0400#16 0) 0xE59E (fun t =>
    t.pc == 0x244#16) := by decide

theorem test_T9_sknp : ran (keysDown ((pcAt 0x240#16).setReg 5#4 0x0A#8) 0x0400#16 0) 0xE5A1 (fun t =>
    t.pc == 0x242#16) := by decide

theorem test_T10_sknp : ran (keysDown ((pcAt 0x240#16).setReg 5#4 0x0A#8) 0x0000#16 0) 0xE5A1 (fun t =>
    t.pc == 0x244#16) := by decide

theorem test_T11_ld_key : ran (keysDown (regs [(3, 0xFF)]) 0x1000#16 0) 0xF30A (fun t =>
    t.reg 3#4 == 0x0C#8 && t.pc == 0x202#16 && t.mode == .running) := by decide

theorem test_T12_ld_key_waits : ran (keysDown (regs [(3, 0xFF)]) 0 0) 0xF30A (fun t =>
    t.mode == .awaitingKey 3#4 && t.pc == 0x200#16 && t.reg 3#4 == 0xFF#8) := by decide

/-- T-13: with keys 2 and 9 down the environment may report either. -/
theorem test_T13_either_key :
    next (cycle (keysDown { State.reset with mode := .awaitingKey 3#4 } 0x0204#16 0)) (fun t =>
      t.reg 3#4 == 2 && t.pc == 0x202#16 && t.mode == .running) ∧
    next (cycle (keysDown { State.reset with mode := .awaitingKey 3#4 } 0x0204#16 9)) (fun t =>
      t.reg 3#4 == 9 && t.pc == 0x202#16 && t.mode == .running) := by decide

theorem test_T14_rnd : ran (draws State.reset 0xB7) 0xC30F (fun t => t.reg 3#4 == 0x07#8) := by decide

theorem test_T16_rnd : ran (draws State.reset 0xB7) 0xC3FF (fun t => t.reg 3#4 == 0xB7#8) := by decide

/-! ## The tick, halts and reset -/

/-- S7, T-4: two ticks of batch 0. -/
theorem test_S7_decay : next (ticks [0, 0] { State.reset with dt := 5, st := 1 }) (fun t => t.dt == 3 && t.st == 0) := by
  decide

/-- T-5: the tick in which a halt occurs decays too. -/
theorem test_T5_decay_when_halting :
    next (tick 1 { State.reset.storeBytes 0x200 [0x00#8, 0xEE#8] with dt := 3 }) (fun t =>
      t.mode == .halted .stackUnderflow && t.pc == 0x200#16 && t.dt == 2) := by decide

/-- H-3: an empty image. -/
theorem test_H3_empty_image : next (step (inTick State.reset 1)) (fun t =>
    t.mode == .halted .unsupportedOpcode && t.pc == 0x200#16) := by decide

/-- H-5 (b): the last address that can be fetched from. -/
theorem test_H5b : next (step (inTick (pcAt 0xFFE#16) 1)) (fun t =>
    t.mode == .halted .unsupportedOpcode && t.pc == 0xFFE#16) := by decide

/-- R53: the first and the last glyph. -/
theorem test_glyphs : (List.range 5).map State.reset.byte = [0xF0#8, 0x90#8, 0x90#8, 0x90#8, 0xF0#8] ∧
    (List.range 5).map (fun k => State.reset.byte (0x4B + k)) = [0xF0#8, 0x80#8, 0xF0#8, 0x80#8, 0x80#8] := by decide

theorem test_construct : next (State.construct Config.normative glyphTable [0x12#8, 0x00#8]) (fun t =>
    t.byte 0x200 == 0x12#8 && t.byte 0x201 == 0 && t.byte 0 == 0xF0#8 && t.mem == [(0x200, 0x12#8)]) := by decide

/-! ## A state for the hypotheses of every obligation that has some

Each theorem bears the name of its obligation. The hypotheses of a clause are met together, at a boundary of the
range where the clause has one. -/

/-- A word at PC, in a tick with one cycle left. -/
def placed (s : State) (w : Nat) : State := inTick (s.withFetchWord 16 w) 1

/-- 0x8126 has an ignored Y. -/
theorem witness_EncodeOfDecode : decode 0x8126#16 = .op (.shr 1#4 2#4) := by decide

theorem witness_DecodesIffARowSelects :
    decode 0xF30A#16 = .op (.ldKey 3#4) ∧ (0xF30A#16 &&& 0xF0FF#16) = 0xF00A#16 := by decide

/-- At the last address that can be fetched from. -/
theorem witness_StepRunsDecodedInstruction : let s := placed (pcAt 0xFFE#16) 0x6A2C
    s.tick = some (0 + 1) ∧ s.mode = .running ∧ s.pc.toNat ≤ 0xFFE ∧
    decode (BitVec.ofNat 16 ((s.byte s.pc.toNat).toNat * 256 + (s.byte (s.pc.toNat + 1)).toNat)) =
      .op (.ldImm 0xA#4 0x2C#8) := by decide

theorem witness_UnsupportedWordHalts : let s := pcAt 0xFFE#16
    s.mode = .running ∧ s.pc.toNat ≤ 0xFFE ∧ decode s.fetchWord = .unsupported := by decide

theorem witness_FetchBeyondMemoryHalts : let s := pcAt 0xFFF#16
    s.mode = .running ∧ s.pc.toNat > 0xFFE := by decide

theorem witness_HaltedCycleIsNoOp : (State.reset.halt .stackOverflow).mode = .halted .stackOverflow := by decide

/-- The machine of T-13. -/
def waiting (keys : BitVec 16) : State := keysDown { State.reset with mode := .awaitingKey 3#4 } keys 9

theorem witness_KeyWaitCycle : (waiting 0x0204#16).mode = .awaitingKey 3#4 ∧
    anyKey (waiting 0x0204#16).answer.keys (waiting 0x0204#16).answer.pick = some 9#4 ∧
    anyKey (waiting 0).answer.keys (waiting 0).answer.pick = none := by decide

theorem witness_TickBoundaries : State.reset.tick = none ∧ (inTick State.reset 0).tick = some 0 := by decide

theorem witness_StepsOfATickAreTheTick : (keysDown State.reset 0 0).tick = none ∧
    (keysDown State.reset 0 0).answer.batch = 0 := by decide

theorem witness_HaltedIsSticky : (inTick (State.reset.halt .addressOutOfRange) 1).mode = .halted .addressOutOfRange := by
  decide

theorem witness_TimersFallByOnePerTick :
    (∃ r, (State.reset.halt .stackUnderflow).mode = .halted r) ∧ ∀ b ∈ [0, 0], b = 0 :=
  ⟨⟨_, rfl⟩, by decide⟩

/-- Memory lists the last byte of the address space, and the step stores there. -/
theorem witness_StepKeepsMemoryCanonical : let s := placed ((regs [(0, 0x5A)]).setI 0xFFF#16) 0xF055
    s.memoryCanonical ∧ ∃ t, step s = .next t := by
  refine ⟨?_, _, rfl⟩
  show Memory.wf _
  decide

/-- A full stack, PC at the last address that can be fetched from, and a step that jumps as far as one can. -/
theorem witness_StepKeepsControlBounded : let s := placed { regs [(0, 0xFF)] with
      pc := 0xFFE#16, stack := List.replicate 16 0x1000#16 } 0xBFFF
    s.controlBounded ∧ ∃ t, step s = .next t := by
  refine ⟨⟨by decide, fun a ha => ?_, by decide, fun x h => ?_⟩, _, rfl⟩
  · rw [List.eq_of_mem_replicate ha]; decide
  · cases h

/-- A machine that waits at its FX0A. -/
def waitingAt : State := { placed (keysDown State.reset 0 0) 0xF30A with mode := .awaitingKey 3#4 }

theorem waitingAt_invariant : waitingAt.keyWaitAtFx0a := by
  intro x h
  have hx : Mode.awaitingKey 3#4 = .awaitingKey x := h
  injection hx with hx
  subst hx
  decide

theorem witness_StepKeepsKeyWaitAtFx0a : waitingAt.keyWaitAtFx0a ∧ ∃ t, step waitingAt = .next t :=
  ⟨waitingAt_invariant, _, rfl⟩

theorem witness_KeyWaitCycleEqualsRefetch : waitingAt.keyWaitAtFx0a ∧ waitingAt.mode = .awaitingKey 3#4 :=
  ⟨waitingAt_invariant, by decide⟩

theorem witness_HaltConditionsExact : State.reset.mode = .running ∧
    (∃ t, exec .ret State.reset = .next t ∧ t.mode = .halted .stackUnderflow) ∧
    Instr.ret.haltsWith State.reset = some .stackUnderflow :=
  ⟨rfl, ⟨_, rfl, rfl⟩, by decide⟩

theorem witness_HaltEntryIsPrecise :
    (State.reset.mode = .running ∧ ∃ t, exec .ret State.reset = .next t ∧ t.mode = .halted .stackUnderflow) ∧
    (inTick State.reset 1).tick = some (0 + 1) ∧ (inTick State.reset 1).mode = .running ∧
    ∃ t, step (inTick State.reset 1) = .next t ∧ t.mode = .halted .unsupportedOpcode :=
  ⟨⟨rfl, _, rfl, rfl⟩, rfl, rfl, _, rfl, rfl⟩

theorem witness_RegistersWritten :
    (∃ t, exec (.addReg 1#4 2#4) State.reset = .next t) ∧ (Instr.addReg 1#4 2#4).isDestination 3#4 = false ∧
    3#4 ≠ vf ∧ (Instr.addReg 1#4 2#4).writesFlag = true ∧ (Instr.addReg 1#4 2#4).haltsWith State.reset = none ∧
    (Instr.addReg 1#4 2#4).isDestination vf = false :=
  ⟨⟨_, rfl⟩, by decide⟩

/-- The first address above the sixteen stored bytes, and the first below. -/
theorem witness_MemoryWritten : (∃ t, exec (.store vf) (index 0x300#16) = .next t) ∧
    ∀ a ∈ [0x2FF, 0x310], ¬((index 0x300#16).i.toNat ≤ a ∧ a < (index 0x300#16).i.toNat + (Instr.store vf).bytesStored) :=
  ⟨⟨_, rfl⟩, by decide⟩

/-- Each element of the state changes for one of the instructions that may change it. -/
theorem witness_SpecialStateWritten :
    next (exec (.call 0x300#12) State.reset) (fun t => t.stack != State.reset.stack) ∧
    next (exec (.ldDt 0#4) (regs [(0, 5)])) (fun t => t.dt != 0) ∧
    next (exec (.ldSt 0#4) (regs [(0, 5)])) (fun t => t.st != 0) ∧
    next (exec (.ldI 0x300#12) State.reset) (fun t => t.i != 0) ∧
    next (exec (.ldKey 3#4) (keysDown State.reset 0 0)) (fun t => t.mode != .running && t.queries != 0) ∧
    next (exec (.drw 0#4 1#4 5#4) State.reset) (fun t => t.fb.pixel 0 0 != State.reset.fb.pixel 0 0) := by decide

theorem witness_CallPushesReturnAddress : (deep 15).stack.length < 16 := by decide

theorem witness_ReturnPopsIntoPc : (deep 1).stack = 0x300#16 :: [] := by decide

theorem witness_StackBoundsHalt : (deep 15).stack.length < 16 ∧ (deep 16).stack.length = 16 ∧ State.reset.stack = [] := by
  decide

theorem witness_CallThenReturnResumes : (deep 15).stack.length < 16 ∧
    ∃ t, exec (.call 0x300#12) (deep 15) = .next t ∧ { State.reset with stack := t.stack }.stack = t.stack :=
  ⟨by decide, _, rfl, rfl⟩

theorem witness_SkipOnRegisters : 0xF#4 ≠ 0#4 := by decide

theorem witness_LogicAndAddFrames : 2#4 ≠ 1#4 := by decide

/-- Both settings of the quirk. -/
theorem witness_ShiftByOne :
    3#8 = (if (regs [(1, 3), (2, 6)]).config.quirkShiftVy then (regs [(1, 3), (2, 6)]).reg 2#4
      else (regs [(1, 3), (2, 6)]).reg 1#4) ∧
    let s := { regs [(1, 3), (2, 6)] with config := { quirkShiftVy := true, quirkLoadStoreInc := false } }
    6#8 = (if s.config.quirkShiftVy then s.reg 2#4 else s.reg 1#4) := by decide

theorem reset_memoryCanonical (a : Word) : (index a).memoryCanonical := ⟨List.Pairwise.nil, fun c h => by cases h⟩

theorem witness_BcdStoresDigits : (index 0xFFD#16).memoryCanonical ∧ (index 0xFFD#16).i.toNat + 2 ≤ 0xFFF :=
  ⟨reset_memoryCanonical _, by decide⟩

theorem witness_StoreRegisters : (index 0xFF0#16).memoryCanonical ∧ (index 0xFF0#16).i.toNat + vf.toNat ≤ 0xFFF :=
  ⟨reset_memoryCanonical _, by decide⟩

theorem witness_LoadRegisters : (index 0xFF0#16).i.toNat + vf.toNat ≤ 0xFFF := by decide

theorem witness_AccessBeyondMemoryHalts :
    (2#4 ≠ 0#4 ∧ (index 0xFFF#16).i.toNat + (2#4).toNat - 1 > 0xFFF) ∧ (index 0xFFE#16).i.toNat + 2 > 0xFFF ∧
    (index 0xFF1#16).i.toNat + vf.toNat > 0xFFF := by decide

theorem witness_StoreThenLoadRestores : (index 0xFFC#16).memoryCanonical ∧ (index 0xFFC#16).i.toNat + (3#4).toNat ≤ 0xFFF ∧
    ∃ t, exec (.store 3#4) (index 0xFFC#16) = .next t ∧
      { index 0xFFC#16 with mem := t.mem }.mem = t.mem ∧ { index 0xFFC#16 with mem := t.mem }.i = (index 0xFFC#16).i :=
  ⟨reset_memoryCanonical _, by decide, _, rfl, rfl, rfl⟩

/-- N = 0 with I beyond memory, and the last byte of memory. -/
theorem witness_DrawXorsThePicture : (0#4 = 0#4 ∨ (index 0xFFFF#16).i.toNat + (0#4).toNat - 1 ≤ 0xFFF) ∧
    (1#4 = 0#4 ∨ (index 0xFFF#16).i.toNat + (1#4).toNat - 1 ≤ 0xFFF) := by decide

/-- S4: glyph 0 on a blank framebuffer, and a machine that meets what is asked before the second draw. -/
theorem witness_DrawTwiceRestores : (5#4 = 0#4 ∨ State.reset.i.toNat + (5#4).toNat - 1 ≤ 0xFFF) ∧
    State.reset.fb = FrameBuffer.blank ∧
    ∃ t, exec (.drw 0#4 1#4 5#4) State.reset = .next t ∧ ∃ u : State, u.fb = t.fb ∧ u.mem = State.reset.mem ∧
      u.i = State.reset.i ∧ u.reg 0#4 = State.reset.reg 0#4 ∧ u.reg 1#4 = State.reset.reg 1#4 :=
  ⟨by decide, rfl, _, rfl, State.reset.setFb _, rfl, rfl, rfl, rfl, rfl⟩

theorem witness_KeyWaitInstruction : (keysDown State.reset 0x8000#16 0).answer.keys ≠ 0#16 ∧
    (keysDown State.reset 0 0).answer.keys = 0#16 := by decide

theorem witness_AnyKeyReportsADownKey : anyKey 0x8001#16 5#4 = some 0xF#4 ∧ (0x8001#16).getLsbD (0xF#4).toNat = true := by
  decide

theorem witness_ImageLoadedVerbatim : (List.replicate 3584 0x12#8).length ≤ 3584 ∧
    3583 < (List.replicate 3584 0x12#8).length ∧ 2 ≤ (List.replicate 3584 0x12#8).length := by
  rw [List.length_replicate]; decide

theorem witness_ConstructLeavesResetState : (List.replicate 3584 0x12#8).length ≤ 3584 ∧
    (0x1FF < 0x200 ∨ 0x200 + (List.replicate 3584 0x12#8).length ≤ 0x1FF) ∧
    (List.replicate 3585 0x12#8).length > 3584 := by
  rw [List.length_replicate, List.length_replicate]; decide

/-- Two ways to come to the same memory. -/
theorem witness_MemoryIsWhatItReadsAs :
    Memory.wf (Memory.write (Memory.write [] 0x300 1#8) 0xFFF 2#8) ∧
    Memory.wf (Memory.write (Memory.write [] 0xFFF 2#8) 0x300 1#8) ∧
    ∀ a, Memory.read (Memory.write (Memory.write [] 0x300 1#8) 0xFFF 2#8) a =
      Memory.read (Memory.write (Memory.write [] 0xFFF 2#8) 0x300 1#8) a :=
  ⟨by decide, by decide, fun _ => rfl⟩

end Sys2Proof.Tests
end

section
/-! The cycle and the tick (40_cycle_and_tick.md). -/

namespace Sys2Proof.Machine

/-- Settles O8 (R95): the cycle's branch for the mode Halted answers the state it was given. -/
theorem haltedCycleIsNoOp : Obligations.HaltedCycleIsNoOp :=
  fun _ _ hm => cycle_of_halted hm

end Sys2Proof.Machine
end

section
/-! Control transfer (41_control_flow.md): the unconditional jump and the skips on an immediate. -/

namespace Sys2Proof.Machine

/-! ## Encodings of the format's leading digit (R72, R73) -/

theorem decode_jp (nnn : Addr12) : decode (0x1#4 ++ nnn) = .op (.jp nnn) := by
  simp [decode]

theorem decode_seImm (x : Reg) (nn : Byte) : decode (0x3#4 ++ x ++ nn) = .op (.seImm x nn) := by
  simp [decode]

theorem decode_sneImm (x : Reg) (nn : Byte) : decode (0x4#4 ++ x ++ nn) = .op (.sneImm x nn) := by
  simp [decode]

/-! ## Meanings, over the operations on PC (R111, R113, R114) -/

theorem exec_jp (nnn : Addr12) (s : State) : exec (.jp nnn) s = .next (s.jump (addrOfImm nnn)) := rfl

theorem exec_seImm (x : Reg) (nn : Byte) (s : State) :
    exec (.seImm x nn) s = .next (s.skipIf (s.reg x == nn)) := rfl

theorem exec_sneImm (x : Reg) (nn : Byte) (s : State) :
    exec (.sneImm x nn) s = .next (s.skipIf (s.reg x != nn)) := rfl

/-! ## What the operations on PC do and leave unchanged -/

/-- Widening an address immediate loses no bit (R75). -/
@[simp] theorem addrOfImm_toNat (nnn : Addr12) : (addrOfImm nnn).toNat = nnn.toNat :=
  BitVec.toNat_setWidth_of_le (by decide)

theorem onlyPc_jump (s : State) (a : Word) : s.onlyPc (s.jump a) := ⟨rfl, jump_byte s a⟩

theorem onlyPc_skipIf (s : State) (c : Bool) : s.onlyPc (s.skipIf c) := ⟨rfl, skipIf_byte s c⟩

theorem skipIf_beq_pc (s : State) (a b : Byte) :
    (s.skipIf (a == b)).pc = if a = b then s.pc + 4#16 else s.pc + 2#16 := by simp

theorem skipIf_bne_pc (s : State) (a b : Byte) :
    (s.skipIf (a != b)).pc = if a = b then s.pc + 2#16 else s.pc + 4#16 := by
  by_cases h : a = b <;> simp [h]

/-! ## The statements -/

/-- Settles O25 (R111): JP is the jump to the widened immediate. -/
theorem jumpSetsPc : Obligations.JumpSetsPc := fun nnn s =>
  ⟨decode_jp nnn, _, exec_jp nnn s, addrOfImm_toNat nnn, onlyPc_jump s _⟩

/-- Settles O30 (R113, R114): SE and SNE are the conditional skip on equality and on its negation. -/
theorem skipOnImmediate : Obligations.SkipOnImmediate := fun x nn s =>
  ⟨decode_seImm x nn, decode_sneImm x nn,
    ⟨_, exec_seImm x nn s, skipIf_beq_pc s _ _, onlyPc_skipIf s _⟩,
    ⟨_, exec_sneImm x nn s, skipIf_bne_pc s _ _, onlyPc_skipIf s _⟩⟩

end Sys2Proof.Machine
end

section
/-! Loads, the immediate addition and the bitwise logic (42_alu.md): one register written, no flag. -/

namespace Sys2Proof.Machine

/-! ## Encodings (R72, R73) -/

theorem decode_ldImm (x : Reg) (nn : Byte) : decode (0x6#4 ++ x ++ nn) = .op (.ldImm x nn) := by
  simp [decode]

theorem decode_addImm (x : Reg) (nn : Byte) : decode (0x7#4 ++ x ++ nn) = .op (.addImm x nn) := by
  simp [decode]

/-- The leading digit 8 hands the word to the decoder of its family. -/
theorem decode_family8 (x y : Reg) (n : Nibble) :
    decode (0x8#4 ++ x ++ y ++ n) = decode8 (0x8#4 ++ x ++ y ++ n) := by
  simp [decode]

theorem decode_ldReg (x y : Reg) : decode (0x8#4 ++ x ++ y ++ 0x0#4) = .op (.ldReg x y) := by
  rw [decode_family8]; simp [decode8]

theorem decode_orReg (x y : Reg) : decode (0x8#4 ++ x ++ y ++ 0x1#4) = .op (.orReg x y) := by
  rw [decode_family8]; simp [decode8]

theorem decode_andReg (x y : Reg) : decode (0x8#4 ++ x ++ y ++ 0x2#4) = .op (.andReg x y) := by
  rw [decode_family8]; simp [decode8]

theorem decode_xorReg (x y : Reg) : decode (0x8#4 ++ x ++ y ++ 0x3#4) = .op (.xorReg x y) := by
  rw [decode_family8]; simp [decode8]

/-! ## Meanings: one register written, then `next` (R131 to R136) -/

theorem exec_ldImm (x : Reg) (nn : Byte) (s : State) :
    exec (.ldImm x nn) s = .next (s.setReg x nn).advance := rfl

theorem exec_addImm (x : Reg) (nn : Byte) (s : State) :
    exec (.addImm x nn) s = .next (s.setReg x (s.reg x + nn)).advance := rfl

theorem exec_ldReg (x y : Reg) (s : State) :
    exec (.ldReg x y) s = .next (s.setReg x (s.reg y)).advance := rfl

theorem exec_orReg (x y : Reg) (s : State) :
    exec (.orReg x y) s = .next (s.setReg x (s.reg x ||| s.reg y)).advance := rfl

theorem exec_andReg (x y : Reg) (s : State) :
    exec (.andReg x y) s = .next (s.setReg x (s.reg x &&& s.reg y)).advance := rfl

theorem exec_xorReg (x y : Reg) (s : State) :
    exec (.xorReg x y) s = .next (s.setReg x (s.reg x ^^^ s.reg y)).advance := rfl

/-! ## What writing one register does and leaves unchanged -/

theorem reg_setReg_same (s : State) (x : Reg) (b : Byte) : (s.setReg x b).reg x = b := by
  rw [reg_setReg, if_pos rfl]

theorem reg_setReg_other (s : State) {x r : Reg} (h : r ≠ x) (b : Byte) : (s.setReg x b).reg r = s.reg r := by
  rw [reg_setReg, if_neg h]

theorem onlyRegsPc_setReg_advance (s : State) (x : Reg) (b : Byte) : s.onlyRegsPc (s.setReg x b).advance :=
  ⟨rfl, setReg_byte s x b⟩

/-- The frame of an instruction that writes Vx only: every other register, VF included, PC + 2, and nothing else. -/
theorem setReg_advance_frame (s : State) (x : Reg) (b : Byte) :
    (∀ r, r ≠ x → (s.setReg x b).advance.reg r = s.reg r) ∧
    (s.setReg x b).advance.pc = s.pc + 2#16 ∧ s.onlyRegsPc (s.setReg x b).advance :=
  ⟨fun _ h => reg_setReg_other s h b, rfl, onlyRegsPc_setReg_advance s x b⟩

/-! ## The statements -/

/-- Settles O33 (R131, R133): both loads write one register, with the immediate and with the old Vy. -/
theorem loadImmediateAndCopy : Obligations.LoadImmediateAndCopy := fun x y nn s =>
  ⟨decode_ldImm x nn, decode_ldReg x y,
    ⟨_, exec_ldImm x nn s, fun r => reg_setReg s x r _, rfl, onlyRegsPc_setReg_advance s x _⟩,
    ⟨_, exec_ldReg x y s, fun r => reg_setReg s x r _, rfl, onlyRegsPc_setReg_advance s x _⟩⟩

/-- Settles O34 (R132): the 8-bit sum is the sum modulo 256, and Vx is the one register written. -/
theorem addImmediateNoFlag : Obligations.AddImmediateNoFlag := fun x nn s => by
  have hsum : ((s.setReg x (s.reg x + nn)).advance.reg x).toNat = ((s.reg x).toNat + nn.toNat) % 256 := by
    rw [advance_reg, reg_setReg_same, BitVec.toNat_add]
  exact ⟨decode_addImm x nn, _, exec_addImm x nn s, hsum, setReg_advance_frame s x _⟩

/-- Settles O35 (R134, R135, R136): bit k of the word operation is the Boolean operation on bits k, and Vx is the one
register written. -/
theorem logicBitByBit : Obligations.LogicBitByBit := fun x y s => by
  refine ⟨decode_orReg x y, decode_andReg x y, decode_xorReg x y,
    ⟨_, exec_orReg x y s, fun k => ?or, setReg_advance_frame s x _⟩,
    ⟨_, exec_andReg x y s, fun k => ?and, setReg_advance_frame s x _⟩,
    ⟨_, exec_xorReg x y s, fun k => ?xor, setReg_advance_frame s x _⟩⟩
  case or => rw [advance_reg, reg_setReg_same, BitVec.getLsbD_or]
  case and => rw [advance_reg, reg_setReg_same, BitVec.getLsbD_and]
  case xor => rw [advance_reg, reg_setReg_same, BitVec.getLsbD_xor]

end Sys2Proof.Machine
end

section
/-! Index register and memory (43_index_memory.md): the instructions that write I and nothing else. -/

namespace Sys2Proof.Machine

/-! ## Encoding and meaning (R72, R150) -/

theorem decode_ldI (nnn : Addr12) : decode (0xA#4 ++ nnn) = .op (.ldI nnn) := by
  simp [decode]

theorem exec_ldI (nnn : Addr12) (s : State) :
    exec (.ldI nnn) s = .next (s.setI (addrOfImm nnn)).advance := rfl

/-! ## What writing I leaves unchanged -/

theorem onlyIndexPc_setI_advance (s : State) (a : Word) : s.onlyIndexPc (s.setI a).advance :=
  ⟨rfl, setI_byte s a⟩

/-! ## The statement -/

/-- Settles O39 (R150): LD I writes I with the widened immediate, then moves to the next instruction. -/
theorem loadIndexImmediate : Obligations.LoadIndexImmediate := fun nnn s =>
  ⟨decode_ldI nnn, _, exec_ldI nnn s, addrOfImm_toNat nnn, rfl, onlyIndexPc_setI_advance s _⟩

end Sys2Proof.Machine
end

section
/-! Display (44_display.md): the clear, and one sprite bit at one pixel. -/

namespace Sys2Proof.Machine

/-! ## The clear: encoding, meaning and frame (R73, R170) -/

theorem decode_cls : decode 0x00E0#16 = .op .cls := by decide

theorem exec_cls (s : State) : exec .cls s = .next (s.setFb FrameBuffer.blank).advance := rfl

/-- Replacing the framebuffer, then PC + 2, touches the framebuffer and PC only. -/
theorem setFb_advance_frame (s : State) (f : FrameBuffer) :
    (s.setFb f).advance = { s with fb := (s.setFb f).advance.fb, pc := (s.setFb f).advance.pc } ∧
    ∀ a, (s.setFb f).advance.byte a = s.byte a :=
  ⟨rfl, setFb_byte s f⟩

/-! ## The pixel operation (R172) -/

/-- The framebuffer after one sprite bit: the pixel it falls on is XORed, every other pixel is as before. -/
theorem pixel_bit (d : Blit) (px qx : Fin 64) (py qy : Fin 32) (b : Bool) :
    (d.bit px py b).fb.pixel qx qy =
      if qx = px ∧ qy = py then d.fb.pixel px py ^^ b else d.fb.pixel qx qy :=
  pixel_setPixel d.fb px qx py qy _

theorem collision_iff (old sprite : Bool) : collision old sprite = true ↔ old = true ∧ sprite = true :=
  Bool.and_eq_true_iff

/-- The hit flag after one sprite bit: an earlier hit stays, and a lit pixel under a 1 bit makes one. -/
theorem hit_bit (d : Blit) (px : Fin 64) (py : Fin 32) (b : Bool) :
    (d.bit px py b).hit = true ↔ d.hit = true ∨ (d.fb.pixel px py = true ∧ b = true) := by
  rw [← collision_iff]
  exact Bool.or_eq_true_iff

/-! ## The statements -/

/-- Settles O47 (R170): CLS puts the blank framebuffer, whose pixels are all off, then moves to the next instruction. -/
theorem clearScreen : Obligations.ClearScreen :=
  ⟨decode_cls, fun s => ⟨_, exec_cls s, pixel_blank, rfl, setFb_advance_frame s _⟩⟩

/-- Settles O48 (R172): the two components of a blit after one sprite bit. -/
theorem pixelOperation : Obligations.PixelOperation := fun d px qx py qy b =>
  ⟨pixel_bit d px qx py qy b, hit_bit d px py b⟩

end Sys2Proof.Machine
end

section
/-! Timers (45_timers_input_random.md): the moves between Vx and the two timers. -/

namespace Sys2Proof.Machine

/-! ## Encodings (R72, R73) -/

/-- The leading digit F hands the word to the decoder of its family. -/
theorem decode_familyF (x : Reg) (nn : Byte) : decode (0xF#4 ++ x ++ nn) = decodeF (0xF#4 ++ x ++ nn) := by
  simp [decode]

theorem decode_ldFromDt (x : Reg) : decode (0xF#4 ++ x ++ 0x07#8) = .op (.ldFromDt x) := by
  rw [decode_familyF]; simp [decodeF]

theorem decode_ldDt (x : Reg) : decode (0xF#4 ++ x ++ 0x15#8) = .op (.ldDt x) := by
  rw [decode_familyF]; simp [decodeF]

theorem decode_ldSt (x : Reg) : decode (0xF#4 ++ x ++ 0x18#8) = .op (.ldSt x) := by
  rw [decode_familyF]; simp [decodeF]

/-! ## Meanings: one register or one timer written, then `next` (R180, R181, R182) -/

theorem exec_ldFromDt (x : Reg) (s : State) :
    exec (.ldFromDt x) s = .next (s.setReg x s.dt).advance := rfl

theorem exec_ldDt (x : Reg) (s : State) :
    exec (.ldDt x) s = .next (s.setDt (s.reg x)).advance := rfl

theorem exec_ldSt (x : Reg) (s : State) :
    exec (.ldSt x) s = .next (s.setSt (s.reg x)).advance := rfl

/-! ## What writing a timer leaves unchanged -/

/-- Replacing the delay timer, then PC + 2, touches the delay timer and PC only. -/
theorem setDt_advance_frame (s : State) (b : Byte) :
    (s.setDt b).advance = { s with dt := (s.setDt b).advance.dt, pc := (s.setDt b).advance.pc } ∧
    ∀ a, (s.setDt b).advance.byte a = s.byte a :=
  ⟨rfl, setDt_byte s b⟩

/-- Replacing the sound timer, then PC + 2, touches the sound timer and PC only. -/
theorem setSt_advance_frame (s : State) (b : Byte) :
    (s.setSt b).advance = { s with st := (s.setSt b).advance.st, pc := (s.setSt b).advance.pc } ∧
    ∀ a, (s.setSt b).advance.byte a = s.byte a :=
  ⟨rfl, setSt_byte s b⟩

/-! ## The statement -/

/-- Settles O51 (R180, R181, R182): the read writes Vx only, so the frame of a register write says that DT stays; each
of the two writes changes its own timer only. -/
theorem timerMoves : Obligations.TimerMoves := fun x s =>
  ⟨decode_ldFromDt x, decode_ldDt x, decode_ldSt x,
    ⟨_, exec_ldFromDt x s, fun r => reg_setReg s x r _, rfl, onlyRegsPc_setReg_advance s x _⟩,
    ⟨_, exec_ldDt x s, rfl, rfl, setDt_advance_frame s _⟩,
    ⟨_, exec_ldSt x s, rfl, rfl, setSt_advance_frame s _⟩⟩

end Sys2Proof.Machine
end

section
/-! Halts (60_exceptions.md): the Unsupported word, and the two bounds of the stack. -/

namespace Sys2Proof.Machine

/-! ## The Unsupported word (R73, R78, R201) -/

/-- An Unsupported word is no instruction. -/
theorem decode_ne_op_of_unsupported {w : Word} (h : decode w = .unsupported) (i : Instr) : decode w ≠ .op i := by
  simp [h]

theorem decode_zero : decode 0x0000#16 = .unsupported := by decide

/-! ## The classes of the halts (R200, R209) -/

theorem unsupportedOpcode_not_fatal : HaltReason.unsupportedOpcode.fatal = false := rfl

theorem stackOverflow_fatal : HaltReason.stackOverflow.fatal = true := rfl

theorem stackUnderflow_fatal : HaltReason.stackUnderflow.fatal = true := rfl

/-! ## The statements -/

/-- Settles O6 (R201): a word that is no instruction takes the cycle to the halt, which is the update of MODE alone. -/
theorem unsupportedWordHalts : Obligations.UnsupportedWordHalts :=
  ⟨fun _ hm hp hd => cycle_of_unsupported hm hp (decode_ne_op_of_unsupported hd),
    unsupportedOpcode_not_fatal, decode_zero⟩

/-- Settles O28 (R202, R203): below 16 entries CALL pushes and jumps, and neither touches MODE; a CALL with 16 and a RET
with none are halts, which leave the stack and PC as they were. -/
theorem stackBoundsHalt : Obligations.StackBoundsHalt := by
  refine ⟨fun nnn s hlt => ?call_pushes, fun nnn s hfull => ?call_overflows, fun s hnil => ?ret_underflows,
    stackOverflow_fatal, stackUnderflow_fatal⟩
  case call_pushes => exact ⟨_, exec_call_of_lt nnn hlt, by simp, by simp⟩
  case call_overflows =>
    exact ⟨_, exec_call_of_full nnn hfull.ge, halt_mode s _, halt_stack s _, halt_pc s _⟩
  case ret_underflows =>
    exact ⟨_, exec_ret_of_nil hnil, halt_mode s _, (halt_stack s _).trans hnil, halt_pc s _⟩

end Sys2Proof.Machine
end

section
/-! Encoding (30_encoding.md): decode and encode are inverse to each other, and the decoder agrees with the opcode
table. -/

namespace Sys2Proof.Machine

/-! ## The word of each instruction decodes to it (R72, R73) -/

theorem decode_ret : decode 0x00EE#16 = .op .ret := by decide

theorem decode_call (nnn : Addr12) : decode (0x2#4 ++ nnn) = .op (.call nnn) := by
  simp [decode]

theorem decode_family5 (x y : Reg) (n : Nibble) :
    decode (0x5#4 ++ x ++ y ++ n) = if n = 0x0#4 then .op (.seReg x y) else .unsupported := by
  simp [decode]

theorem decode_seReg (x y : Reg) : decode (0x5#4 ++ x ++ y ++ 0x0#4) = .op (.seReg x y) := by
  rw [decode_family5, if_pos rfl]

theorem decode_addReg (x y : Reg) : decode (0x8#4 ++ x ++ y ++ 0x4#4) = .op (.addReg x y) := by
  rw [decode_family8]; simp [decode8]

theorem decode_sub (x y : Reg) : decode (0x8#4 ++ x ++ y ++ 0x5#4) = .op (.sub x y) := by
  rw [decode_family8]; simp [decode8]

theorem decode_shr (x y : Reg) : decode (0x8#4 ++ x ++ y ++ 0x6#4) = .op (.shr x y) := by
  rw [decode_family8]; simp [decode8]

theorem decode_subn (x y : Reg) : decode (0x8#4 ++ x ++ y ++ 0x7#4) = .op (.subn x y) := by
  rw [decode_family8]; simp [decode8]

theorem decode_shl (x y : Reg) : decode (0x8#4 ++ x ++ y ++ 0xE#4) = .op (.shl x y) := by
  rw [decode_family8]; simp [decode8]

theorem decode_family9 (x y : Reg) (n : Nibble) :
    decode (0x9#4 ++ x ++ y ++ n) = if n = 0x0#4 then .op (.sneReg x y) else .unsupported := by
  simp [decode]

theorem decode_sneReg (x y : Reg) : decode (0x9#4 ++ x ++ y ++ 0x0#4) = .op (.sneReg x y) := by
  rw [decode_family9, if_pos rfl]

theorem decode_jpV0 (nnn : Addr12) : decode (0xB#4 ++ nnn) = .op (.jpV0 nnn) := by
  simp [decode]

theorem decode_rnd (x : Reg) (nn : Byte) : decode (0xC#4 ++ x ++ nn) = .op (.rnd x nn) := by
  simp [decode]

theorem decode_drw (x y : Reg) (n : Nibble) : decode (0xD#4 ++ x ++ y ++ n) = .op (.drw x y n) := by
  simp [decode]

/-- The leading digit E hands the word to the decoder of its family. -/
theorem decode_familyE (x : Reg) (nn : Byte) : decode (0xE#4 ++ x ++ nn) = decodeE (0xE#4 ++ x ++ nn) := by
  simp [decode]

theorem decode_skp (x : Reg) : decode (0xE#4 ++ x ++ 0x9E#8) = .op (.skp x) := by
  rw [decode_familyE]; simp [decodeE]

theorem decode_sknp (x : Reg) : decode (0xE#4 ++ x ++ 0xA1#8) = .op (.sknp x) := by
  rw [decode_familyE]; simp [decodeE]

theorem decode_ldKey (x : Reg) : decode (0xF#4 ++ x ++ 0x0A#8) = .op (.ldKey x) := by
  rw [decode_familyF]; simp [decodeF]

theorem decode_addI (x : Reg) : decode (0xF#4 ++ x ++ 0x1E#8) = .op (.addI x) := by
  rw [decode_familyF]; simp [decodeF]

theorem decode_ldGlyph (x : Reg) : decode (0xF#4 ++ x ++ 0x29#8) = .op (.ldGlyph x) := by
  rw [decode_familyF]; simp [decodeF]

theorem decode_bcd (x : Reg) : decode (0xF#4 ++ x ++ 0x33#8) = .op (.bcd x) := by
  rw [decode_familyF]; simp [decodeF]

theorem decode_store (x : Reg) : decode (0xF#4 ++ x ++ 0x55#8) = .op (.store x) := by
  rw [decode_familyF]; simp [decodeF]

theorem decode_load (x : Reg) : decode (0xF#4 ++ x ++ 0x65#8) = .op (.load x) := by
  rw [decode_familyF]; simp [decodeF]

/-! ## Decoding what was encoded -/

theorem decode_encode : ∀ i : Instr, decode (encode i) = .op i
  | .cls => decode_cls
  | .ret => decode_ret
  | .jp nnn => decode_jp nnn
  | .call nnn => decode_call nnn
  | .seImm x nn => decode_seImm x nn
  | .sneImm x nn => decode_sneImm x nn
  | .seReg x y => decode_seReg x y
  | .ldImm x nn => decode_ldImm x nn
  | .addImm x nn => decode_addImm x nn
  | .ldReg x y => decode_ldReg x y
  | .orReg x y => decode_orReg x y
  | .andReg x y => decode_andReg x y
  | .xorReg x y => decode_xorReg x y
  | .addReg x y => decode_addReg x y
  | .sub x y => decode_sub x y
  | .shr x y => decode_shr x y
  | .subn x y => decode_subn x y
  | .shl x y => decode_shl x y
  | .sneReg x y => decode_sneReg x y
  | .ldI nnn => decode_ldI nnn
  | .jpV0 nnn => decode_jpV0 nnn
  | .rnd x nn => decode_rnd x nn
  | .drw x y n => decode_drw x y n
  | .skp x => decode_skp x
  | .sknp x => decode_sknp x
  | .ldFromDt x => decode_ldFromDt x
  | .ldKey x => decode_ldKey x
  | .ldDt x => decode_ldDt x
  | .ldSt x => decode_ldSt x
  | .addI x => decode_addI x
  | .ldGlyph x => decode_ldGlyph x
  | .bcd x => decode_bcd x
  | .store x => decode_store x
  | .load x => decode_load x

/-- The two bytes of a word, read back in the order of their addresses, are the word (R55). -/
theorem decodeBytes_bytesOfWord (w : Word) (rest : List Byte) :
    decodeBytes (bytesOfWord w ++ rest) = (decode w, rest) := by
  show (decode (wordOfBytes (w.extractLsb' 8 8) (w.extractLsb' 0 8)), rest) = _
  rw [wordOfBytes_of_word]

/-! ## The decoder, leading digit by leading digit (R73) -/

/-- The sixteen leading digits. -/
theorem nibble_cases : ∀ f : Nibble, f = 0x0#4 ∨ f = 0x1#4 ∨ f = 0x2#4 ∨ f = 0x3#4 ∨ f = 0x4#4 ∨ f = 0x5#4 ∨
    f = 0x6#4 ∨ f = 0x7#4 ∨ f = 0x8#4 ∨ f = 0x9#4 ∨ f = 0xA#4 ∨ f = 0xB#4 ∨ f = 0xC#4 ∨ f = 0xD#4 ∨ f = 0xE#4 ∨
    f = 0xF#4 := by decide

section
variable {w : Word}

theorem decode_of_family0 (hf : family w = 0x0#4) : decode w = decode0 w := by simp [decode, hf]
theorem decode_of_family1 (hf : family w = 0x1#4) : decode w = .op (.jp (fieldNNN w)) := by simp [decode, hf]
theorem decode_of_family2 (hf : family w = 0x2#4) : decode w = .op (.call (fieldNNN w)) := by simp [decode, hf]
theorem decode_of_family3 (hf : family w = 0x3#4) : decode w = .op (.seImm (fieldX w) (fieldNN w)) := by
  simp [decode, hf]
theorem decode_of_family4 (hf : family w = 0x4#4) : decode w = .op (.sneImm (fieldX w) (fieldNN w)) := by
  simp [decode, hf]
theorem decode_of_family5 (hf : family w = 0x5#4) :
    decode w = if fieldN w = 0x0#4 then .op (.seReg (fieldX w) (fieldY w)) else .unsupported := by simp [decode, hf]
theorem decode_of_family6 (hf : family w = 0x6#4) : decode w = .op (.ldImm (fieldX w) (fieldNN w)) := by
  simp [decode, hf]
theorem decode_of_family7 (hf : family w = 0x7#4) : decode w = .op (.addImm (fieldX w) (fieldNN w)) := by
  simp [decode, hf]
theorem decode_of_family8 (hf : family w = 0x8#4) : decode w = decode8 w := by simp [decode, hf]
theorem decode_of_family9 (hf : family w = 0x9#4) :
    decode w = if fieldN w = 0x0#4 then .op (.sneReg (fieldX w) (fieldY w)) else .unsupported := by simp [decode, hf]
theorem decode_of_familyA (hf : family w = 0xA#4) : decode w = .op (.ldI (fieldNNN w)) := by simp [decode, hf]
theorem decode_of_familyB (hf : family w = 0xB#4) : decode w = .op (.jpV0 (fieldNNN w)) := by simp [decode, hf]
theorem decode_of_familyC (hf : family w = 0xC#4) : decode w = .op (.rnd (fieldX w) (fieldNN w)) := by
  simp [decode, hf]
theorem decode_of_familyD (hf : family w = 0xD#4) : decode w = .op (.drw (fieldX w) (fieldY w) (fieldN w)) := by
  simp [decode, hf]
theorem decode_of_familyE (hf : family w = 0xE#4) : decode w = decodeE w := by simp [decode, hf]
theorem decode_of_familyF (hf : family w = 0xF#4) : decode w = decodeF w := by simp [decode, hf]

end

/-! ## Encoding what was decoded

A branch of the decoder has tested the literal digits of its row and read the other fields of the word, so the
instruction's digits are the word's own. -/

section
variable {w : Word} {i : Instr} {f : Nibble}

theorem encode_eq_of_nnn (hf : family w = f) (he : encode i = f ++ fieldNNN w) : encode i = w := by
  rw [he, ← hf, nnn_of_fields]

theorem encode_eq_of_xnn {nn : Byte} (hf : family w = f) (hn : fieldNN w = nn)
    (he : encode i = f ++ fieldX w ++ nn) : encode i = w := by
  rw [he, ← hf, ← hn, xnn_of_fields]

theorem encode_eq_of_xyn {n : Nibble} (hf : family w = f) (hn : fieldN w = n)
    (he : encode i = f ++ fieldX w ++ fieldY w ++ n) : encode i = w := by
  rw [he, ← hf, ← hn, xyn_of_fields]

theorem encode_of_decode0 (h : decode0 w = .op i) : encode i = w := by
  unfold decode0 at h
  split_ifs at h with hw hw <;> cases h <;> exact hw.symm

theorem encode_of_decode8 (hf : family w = 0x8#4) (h : decode8 w = .op i) : encode i = w := by
  simp only [decode8] at h
  split_ifs at h with hn hn hn hn hn hn hn hn hn <;> cases h <;> exact encode_eq_of_xyn hf hn rfl

theorem encode_of_decodeE (hf : family w = 0xE#4) (h : decodeE w = .op i) : encode i = w := by
  simp only [decodeE] at h
  split_ifs at h with hn hn <;> cases h <;> exact encode_eq_of_xnn hf hn rfl

theorem encode_of_decodeF (hf : family w = 0xF#4) (h : decodeF w = .op i) : encode i = w := by
  simp only [decodeF] at h
  split_ifs at h with hn hn hn hn hn hn hn hn hn <;> cases h <;> exact encode_eq_of_xnn hf hn rfl

theorem encode_of_decode (h : decode w = .op i) : encode i = w := by
  rcases nibble_cases (family w) with
    hf | hf | hf | hf | hf | hf | hf | hf | hf | hf | hf | hf | hf | hf | hf | hf
  · exact encode_of_decode0 (decode_of_family0 hf ▸ h)
  · cases decode_of_family1 hf ▸ h; exact encode_eq_of_nnn hf rfl
  · cases decode_of_family2 hf ▸ h; exact encode_eq_of_nnn hf rfl
  · cases decode_of_family3 hf ▸ h; exact encode_eq_of_xnn hf rfl rfl
  · cases decode_of_family4 hf ▸ h; exact encode_eq_of_xnn hf rfl rfl
  · rw [decode_of_family5 hf] at h
    split_ifs at h with hn
    cases h; exact encode_eq_of_xyn hf hn rfl
  · cases decode_of_family6 hf ▸ h; exact encode_eq_of_xnn hf rfl rfl
  · cases decode_of_family7 hf ▸ h; exact encode_eq_of_xnn hf rfl rfl
  · exact encode_of_decode8 hf (decode_of_family8 hf ▸ h)
  · rw [decode_of_family9 hf] at h
    split_ifs at h with hn
    cases h; exact encode_eq_of_xyn hf hn rfl
  · cases decode_of_familyA hf ▸ h; exact encode_eq_of_nnn hf rfl
  · cases decode_of_familyB hf ▸ h; exact encode_eq_of_nnn hf rfl
  · cases decode_of_familyC hf ▸ h; exact encode_eq_of_xnn hf rfl rfl
  · cases decode_of_familyD hf ▸ h; exact encode_eq_of_xyn hf rfl rfl
  · exact encode_of_decodeE hf (decode_of_familyE hf ▸ h)
  · exact encode_of_decodeF hf (decode_of_familyF hf ▸ h)

end

/-- A word decodes to an instruction iff it is the instruction's encoding. -/
theorem decode_eq_op_iff (w : Word) (i : Instr) : decode w = .op i ↔ encode i = w :=
  ⟨encode_of_decode, fun h => h ▸ decode_encode i⟩

/-! ## The opcode table (R74, R77) -/

/-- The row of a mnemonic selects every word of its instruction. -/
theorem row_selects_encode : ∀ i : Instr, Laws.Encoding.Statement i
  | .cls => Laws.Encoding.cls
  | .ret => Laws.Encoding.ret
  | .jp nnn => Laws.Encoding.jp nnn
  | .call nnn => Laws.Encoding.call nnn
  | .seImm x nn => Laws.Encoding.seImm x nn
  | .sneImm x nn => Laws.Encoding.sneImm x nn
  | .seReg x y => Laws.Encoding.seReg x y
  | .ldImm x nn => Laws.Encoding.ldImm x nn
  | .addImm x nn => Laws.Encoding.addImm x nn
  | .ldReg x y => Laws.Encoding.ldReg x y
  | .orReg x y => Laws.Encoding.orReg x y
  | .andReg x y => Laws.Encoding.andReg x y
  | .xorReg x y => Laws.Encoding.xorReg x y
  | .addReg x y => Laws.Encoding.addReg x y
  | .sub x y => Laws.Encoding.sub x y
  | .shr x y => Laws.Encoding.shr x y
  | .subn x y => Laws.Encoding.subn x y
  | .shl x y => Laws.Encoding.shl x y
  | .sneReg x y => Laws.Encoding.sneReg x y
  | .ldI nnn => Laws.Encoding.ldI nnn
  | .jpV0 nnn => Laws.Encoding.jpV0 nnn
  | .rnd x nn => Laws.Encoding.rnd x nn
  | .drw x y n => Laws.Encoding.drw x y n
  | .skp x => Laws.Encoding.skp x
  | .sknp x => Laws.Encoding.sknp x
  | .ldFromDt x => Laws.Encoding.ldFromDt x
  | .ldKey x => Laws.Encoding.ldKey x
  | .ldDt x => Laws.Encoding.ldDt x
  | .ldSt x => Laws.Encoding.ldSt x
  | .addI x => Laws.Encoding.addI x
  | .ldGlyph x => Laws.Encoding.ldGlyph x
  | .bcd x => Laws.Encoding.bcd x
  | .store x => Laws.Encoding.store x
  | .load x => Laws.Encoding.load x

theorem row_selects_of_decode {w : Word} {i : Instr} (h : decode w = .op i) :
    ∃ r ∈ opcodeTable, r.mnemonic = i.mnemonic ∧ w &&& r.mask = r.code :=
  encode_of_decode h ▸ row_selects_encode i

section
variable {w : Word} {f : Nibble}

theorem decodes_of_mask_F00F {n : Nibble} (mk : Reg → Reg → Instr) (hmk : ∀ x y, encode (mk x y) = f ++ x ++ y ++ n)
    (h : w &&& 0xF00F#16 = f ++ 0x0#4 ++ 0x0#4 ++ n) : ∃ i, decode w = .op i := by
  obtain ⟨hf, hn⟩ := (mask_F00F f n w).1 h
  exact ⟨_, (decode_eq_op_iff w _).2 (encode_eq_of_xyn hf hn (hmk (fieldX w) (fieldY w)))⟩

theorem decodes_of_mask_F0FF {nn : Byte} (mk : Reg → Instr) (hmk : ∀ x, encode (mk x) = f ++ x ++ nn)
    (h : w &&& 0xF0FF#16 = f ++ 0x0#4 ++ nn) : ∃ i, decode w = .op i := by
  obtain ⟨hf, hn⟩ := (mask_F0FF f nn w).1 h
  exact ⟨_, (decode_eq_op_iff w _).2 (encode_eq_of_xnn hf hn (hmk (fieldX w)))⟩

end

/-- A word that a row selects is the word of an instruction: the row's literal digits and the word's other fields. -/
theorem decodes_of_row_selects {w : Word} {r : OpcodeRow} (hr : r ∈ opcodeTable) (h : w &&& r.mask = r.code) :
    ∃ i, decode w = .op i := by
  simp only [opcodeTable, opcodeRowsFirst, opcodeRowsLast, List.cons_append, List.nil_append, List.mem_cons,
    List.not_mem_nil, or_false] at hr
  rcases hr with rfl | rfl | rfl | rfl | rfl | rfl | rfl | rfl | rfl | rfl | rfl | rfl | rfl | rfl | rfl | rfl | rfl |
    rfl | rfl | rfl | rfl | rfl | rfl | rfl | rfl | rfl | rfl | rfl | rfl | rfl | rfl | rfl | rfl | rfl
  · exact ⟨_, by rw [← masked_FFFF w, h]; exact decode_cls⟩
  · exact ⟨_, by rw [← masked_FFFF w, h]; exact decode_ret⟩
  · exact ⟨_, decode_of_family1 ((mask_F000 0x1#4 w).1 h)⟩
  · exact ⟨_, decode_of_family2 ((mask_F000 0x2#4 w).1 h)⟩
  · exact ⟨_, decode_of_family3 ((mask_F000 0x3#4 w).1 h)⟩
  · exact ⟨_, decode_of_family4 ((mask_F000 0x4#4 w).1 h)⟩
  · exact decodes_of_mask_F00F .seReg (fun _ _ => rfl) h
  · exact ⟨_, decode_of_family6 ((mask_F000 0x6#4 w).1 h)⟩
  · exact ⟨_, decode_of_family7 ((mask_F000 0x7#4 w).1 h)⟩
  · exact decodes_of_mask_F00F .ldReg (fun _ _ => rfl) h
  · exact decodes_of_mask_F00F .orReg (fun _ _ => rfl) h
  · exact decodes_of_mask_F00F .andReg (fun _ _ => rfl) h
  · exact decodes_of_mask_F00F .xorReg (fun _ _ => rfl) h
  · exact decodes_of_mask_F00F .addReg (fun _ _ => rfl) h
  · exact decodes_of_mask_F00F .sub (fun _ _ => rfl) h
  · exact decodes_of_mask_F00F .shr (fun _ _ => rfl) h
  · exact decodes_of_mask_F00F .subn (fun _ _ => rfl) h
  · exact decodes_of_mask_F00F .shl (fun _ _ => rfl) h
  · exact decodes_of_mask_F00F .sneReg (fun _ _ => rfl) h
  · exact ⟨_, decode_of_familyA ((mask_F000 0xA#4 w).1 h)⟩
  · exact ⟨_, decode_of_familyB ((mask_F000 0xB#4 w).1 h)⟩
  · exact ⟨_, decode_of_familyC ((mask_F000 0xC#4 w).1 h)⟩
  · exact ⟨_, decode_of_familyD ((mask_F000 0xD#4 w).1 h)⟩
  · exact decodes_of_mask_F0FF .skp (fun _ => rfl) h
  · exact decodes_of_mask_F0FF .sknp (fun _ => rfl) h
  · exact decodes_of_mask_F0FF .ldFromDt (fun _ => rfl) h
  · exact decodes_of_mask_F0FF .ldKey (fun _ => rfl) h
  · exact decodes_of_mask_F0FF .ldDt (fun _ => rfl) h
  · exact decodes_of_mask_F0FF .ldSt (fun _ => rfl) h
  · exact decodes_of_mask_F0FF .addI (fun _ => rfl) h
  · exact decodes_of_mask_F0FF .ldGlyph (fun _ => rfl) h
  · exact decodes_of_mask_F0FF .bcd (fun _ => rfl) h
  · exact decodes_of_mask_F0FF .store (fun _ => rfl) h
  · exact decodes_of_mask_F0FF .load (fun _ => rfl) h

theorem decodes_iff_row_selects (w : Word) : (∃ i, decode w = .op i) ↔ ∃ r ∈ opcodeTable, w &&& r.mask = r.code := by
  refine ⟨fun ⟨i, h⟩ => ?_, fun ⟨r, hr, h⟩ => decodes_of_row_selects hr h⟩
  obtain ⟨r, hr, -, hsel⟩ := row_selects_of_decode h
  exact ⟨r, hr, hsel⟩

/-- The decoder never answers `truncated`, which stands for missing bytes (R73). -/
theorem decode_unsupported_or_op (w : Word) : decode w = .unsupported ∨ ∃ i, decode w = .op i := by
  cases h : decode w with
  | op i => exact .inr ⟨i, rfl⟩
  | unsupported => exact .inl rfl
  | truncated =>
    rcases nibble_cases (family w) with
      hf | hf | hf | hf | hf | hf | hf | hf | hf | hf | hf | hf | hf | hf | hf | hf
    · rw [decode_of_family0 hf] at h; unfold decode0 at h; split_ifs at h
    · cases (decode_of_family1 hf).symm.trans h
    · cases (decode_of_family2 hf).symm.trans h
    · cases (decode_of_family3 hf).symm.trans h
    · cases (decode_of_family4 hf).symm.trans h
    · rw [decode_of_family5 hf] at h; split_ifs at h
    · cases (decode_of_family6 hf).symm.trans h
    · cases (decode_of_family7 hf).symm.trans h
    · rw [decode_of_family8 hf] at h; simp only [decode8] at h; split_ifs at h
    · rw [decode_of_family9 hf] at h; split_ifs at h
    · cases (decode_of_familyA hf).symm.trans h
    · cases (decode_of_familyB hf).symm.trans h
    · cases (decode_of_familyC hf).symm.trans h
    · cases (decode_of_familyD hf).symm.trans h
    · rw [decode_of_familyE hf] at h; unfold decodeE at h; split_ifs at h
    · rw [decode_of_familyF hf] at h; simp only [decodeF] at h; split_ifs at h

/-- Two rows of the table differ in a digit that is literal in both. -/
theorem opcodeTable_codes_differ : opcodeTable.Pairwise fun r q => r.code &&& q.mask ≠ q.code &&& r.mask := by
  decide

/-- A word that two rows select has the code of each under the mask of both. -/
theorem codes_agree_of_selects {w : Word} {r q : OpcodeRow} (hr : w &&& r.mask = r.code) (hq : w &&& q.mask = q.code) :
    r.code &&& q.mask = q.code &&& r.mask := by
  rw [← hr, ← hq, BitVec.and_assoc, BitVec.and_assoc, BitVec.and_comm r.mask]

/-! ## The statements -/

/-- Settles O1 (R71 to R78): fifteen words, decoded by evaluation. -/
theorem sampleWordsDecode : Obligations.SampleWordsDecode := by
  unfold Obligations.SampleWordsDecode
  decide

/-- Settles O2 (R71, R73, R74): every instruction's digits are read back by the decoder's branch for its row, and a
word's two bytes in memory order make up the word. -/
theorem decodeOfEncode : Obligations.DecodeOfEncode := fun i =>
  ⟨decode_encode i, fun rest => by rw [encodeBytes, decodeBytes_bytesOfWord, decode_encode]⟩

/-- Settles O3 (R76, R77): each branch of the decoder tests the row's literal digits and keeps every other field. -/
theorem encodeOfDecode : Obligations.EncodeOfDecode := fun _ _ => encode_of_decode

/-- Settles O4 (R73, R74, R77, R78): a decoded word is an encoding, which the row of its mnemonic selects; a word that
a row selects is an encoding; and two rows never agree on the digits literal in both. -/
theorem decodesIffARowSelects : Obligations.DecodesIffARowSelects :=
  ⟨decodes_iff_row_selects, fun _ _ => row_selects_of_decode, decode_unsupported_or_op, rfl,
    fun _ => opcodeTable_codes_differ.imp fun hne ⟨hr, hq⟩ => hne (codes_agree_of_selects hr hq)⟩

end Sys2Proof.Machine
end

section
/-! Every instruction, said once: it halts exactly when `Instr.haltsWith` says so, and then MODE is all that changes;
otherwise its effect is `Instr.completed`, a state for which each element has one frame lemma. -/

namespace Sys2Proof.Machine

/-! ## What the operations of several writes do to each field -/

section
variable (s : State)

@[simp] theorem writeFlagged_i (x : Reg) (c : Bool) (b : Byte) : (s.writeFlagged x c b).i = s.i := rfl
@[simp] theorem writeFlagged_pc (x : Reg) (c : Bool) (b : Byte) : (s.writeFlagged x c b).pc = s.pc + 2#16 := rfl
@[simp] theorem writeFlagged_stack (x : Reg) (c : Bool) (b : Byte) : (s.writeFlagged x c b).stack = s.stack := rfl
@[simp] theorem writeFlagged_dt (x : Reg) (c : Bool) (b : Byte) : (s.writeFlagged x c b).dt = s.dt := rfl
@[simp] theorem writeFlagged_st (x : Reg) (c : Bool) (b : Byte) : (s.writeFlagged x c b).st = s.st := rfl
@[simp] theorem writeFlagged_fb (x : Reg) (c : Bool) (b : Byte) : (s.writeFlagged x c b).fb = s.fb := rfl
@[simp] theorem writeFlagged_mem (x : Reg) (c : Bool) (b : Byte) : (s.writeFlagged x c b).mem = s.mem := rfl
@[simp] theorem writeFlagged_mode (x : Reg) (c : Bool) (b : Byte) : (s.writeFlagged x c b).mode = s.mode := rfl
@[simp] theorem writeFlagged_env (x : Reg) (c : Bool) (b : Byte) : (s.writeFlagged x c b).env = s.env := rfl
@[simp] theorem writeFlagged_queries (x : Reg) (c : Bool) (b : Byte) :
    (s.writeFlagged x c b).queries = s.queries := rfl

@[simp] theorem loadRegs_pc (a n : Nat) : (s.loadRegs a n).pc = s.pc := by rw [loadRegs_frame]
@[simp] theorem loadRegs_stack (a n : Nat) : (s.loadRegs a n).stack = s.stack := by rw [loadRegs_frame]
@[simp] theorem loadRegs_dt (a n : Nat) : (s.loadRegs a n).dt = s.dt := by rw [loadRegs_frame]
@[simp] theorem loadRegs_st (a n : Nat) : (s.loadRegs a n).st = s.st := by rw [loadRegs_frame]
@[simp] theorem loadRegs_fb (a n : Nat) : (s.loadRegs a n).fb = s.fb := by rw [loadRegs_frame]
@[simp] theorem loadRegs_mem (a n : Nat) : (s.loadRegs a n).mem = s.mem := by rw [loadRegs_frame]
@[simp] theorem loadRegs_mode (a n : Nat) : (s.loadRegs a n).mode = s.mode := by rw [loadRegs_frame]
@[simp] theorem loadRegs_env (a n : Nat) : (s.loadRegs a n).env = s.env := by rw [loadRegs_frame]
@[simp] theorem loadRegs_queries (a n : Nat) : (s.loadRegs a n).queries = s.queries := by rw [loadRegs_frame]

end

/-! ## The effect of an instruction that does not halt -/

/-- FX0A, in its first cycle (R185): a reported key is stored, else the machine begins to wait. -/
def State.keyStep (s : State) (x : Reg) : State :=
  match s.reportedKey with
  | some k => (s.answered.setReg x (byteOfKey k)).advance
  | none => { s.answered with mode := .awaitingKey x }

theorem keyStep_of_some {s : State} {k : Nibble} (h : s.reportedKey = some k) (x : Reg) :
    s.keyStep x = (s.answered.setReg x (byteOfKey k)).advance := by simp [State.keyStep, h]

theorem keyStep_of_none {s : State} (h : s.reportedKey = none) (x : Reg) :
    s.keyStep x = { s.answered with mode := .awaitingKey x } := by simp [State.keyStep, h]

/-- The state after an instruction for which no check fails. -/
def State.completed (s : State) : Instr → State
  | .cls => (s.setFb FrameBuffer.blank).advance
  | .ret => { s with stack := s.stack.tail, pc := s.stack.headD s.pc }
  | .jp nnn => s.jump (addrOfImm nnn)
  | .call nnn => (s.push (s.pc + 2#16)).jump (addrOfImm nnn)
  | .seImm x nn => s.skipIf (s.reg x == nn)
  | .sneImm x nn => s.skipIf (s.reg x != nn)
  | .seReg x y => s.skipIf (s.reg x == s.reg y)
  | .ldImm x nn => (s.setReg x nn).advance
  | .addImm x nn => (s.setReg x (s.reg x + nn)).advance
  | .ldReg x y => (s.setReg x (s.reg y)).advance
  | .orReg x y => (s.setReg x (s.reg x ||| s.reg y)).advance
  | .andReg x y => (s.setReg x (s.reg x &&& s.reg y)).advance
  | .xorReg x y => (s.setReg x (s.reg x ^^^ s.reg y)).advance
  | .addReg x y => s.writeFlagged x (carry (s.reg x) (s.reg y)) (s.reg x + s.reg y)
  | .sub x y => s.writeFlagged x (notBorrow (s.reg x) (s.reg y)) (s.reg x - s.reg y)
  | .shr x y => s.writeFlagged x (shiftedOutRight (s.shiftOperand x y)) (s.shiftOperand x y >>> 1)
  | .subn x y => s.writeFlagged x (notBorrow (s.reg y) (s.reg x)) (s.reg y - s.reg x)
  | .shl x y => s.writeFlagged x (shiftedOutLeft (s.shiftOperand x y)) (s.shiftOperand x y <<< 1)
  | .sneReg x y => s.skipIf (s.reg x != s.reg y)
  | .ldI nnn => (s.setI (addrOfImm nnn)).advance
  | .jpV0 nnn => s.jump (addrOfImm nnn + wordOfByte (s.reg 0x0#4))
  | .rnd x nn => (s.answered.setReg x (s.answer.rand &&& nn)).advance
  | .drw x y n => ((s.setFb (s.blit x y n.toNat).fb).setFlag (s.blit x y n.toNat).hit).advance
  | .skp x => s.answered.skipIf (keyDown s.answer.keys (keyIndex (s.reg x)))
  | .sknp x => s.answered.skipIf (!keyDown s.answer.keys (keyIndex (s.reg x)))
  | .ldFromDt x => (s.setReg x s.dt).advance
  | .ldKey x => s.keyStep x
  | .ldDt x => (s.setDt (s.reg x)).advance
  | .ldSt x => (s.setSt (s.reg x)).advance
  | .addI x => (s.setI (s.i + wordOfByte (s.reg x))).advance
  | .ldGlyph x => (s.setI (glyphAddress (glyphIndex (s.reg x)))).advance
  | .bcd x => (s.storeBytes s.i.toNat (bcdDigits (s.reg x))).advance
  | .store x =>
    ((s.storeBytes s.i.toNat (s.firstRegs (x.toNat + 1))).setI (s.indexAfterTransfer x)).advance
  | .load x => ((s.loadRegs s.i.toNat (x.toNat + 1)).setI (s.indexAfterTransfer x)).advance

/-- The state after an instruction: the halt, if `haltsWith` gives a reason, else the completed effect. -/
def State.after (s : State) (i : Instr) : State :=
  match i.haltsWith s with
  | some r => s.halt r
  | none => s.completed i

section
variable {i : Instr} {s : State}

theorem after_of_some {r : HaltReason} (h : i.haltsWith s = some r) : s.after i = s.halt r := by
  simp [State.after, h]

theorem after_of_none (h : i.haltsWith s = none) : s.after i = s.completed i := by simp [State.after, h]

end

/-! ## The six instructions that can halt -/

section
variable (x y : Reg) (s : State)

/-- `c` is the condition of a range halt as R57 words it, for `n` bytes from I on. -/
theorem ite_halts_eq_rangeOk {c : Prop} [Decidable c] {n : Nat} (h : c ↔ ¬(n = 0 ∨ s.i.toNat + n ≤ 4096)) :
    (if c then some HaltReason.addressOutOfRange else none) =
      if rangeOk s.i.toNat n then none else some .addressOutOfRange := by
  by_cases hn : n = 0 ∨ s.i.toNat + n ≤ 4096
  · rw [if_neg (by rw [h]; exact not_not_intro hn), if_pos ((rangeOk_iff _ _).2 hn)]
  · rw [if_pos (h.2 hn), if_neg (by rwa [rangeOk_iff])]

theorem haltsWith_drw (n : Nibble) : (Instr.drw x y n).haltsWith s =
    if rangeOk s.i.toNat n.toNat then none else some .addressOutOfRange :=
  ite_halts_eq_rangeOk s (by omega)

theorem haltsWith_bcd : (Instr.bcd x).haltsWith s = if rangeOk s.i.toNat 3 then none else some .addressOutOfRange :=
  ite_halts_eq_rangeOk s (by omega)

theorem haltsWith_store : (Instr.store x).haltsWith s =
    if rangeOk s.i.toNat (x.toNat + 1) then none else some .addressOutOfRange :=
  ite_halts_eq_rangeOk s (by omega)

theorem haltsWith_load : (Instr.load x).haltsWith s =
    if rangeOk s.i.toNat (x.toNat + 1) then none else some .addressOutOfRange := haltsWith_store x s

end

/-- A range-checked effect halts exactly when its range is not within memory. -/
theorem checked_eq_after {i : Instr} {s : State} {n : Nat}
    (h : i.haltsWith s = if rangeOk s.i.toNat n then none else some .addressOutOfRange) :
    s.checked n (s.completed i) = s.after i := by
  cases hr : rangeOk s.i.toNat n
  · rw [after_of_some (r := .addressOutOfRange) (by simp [h, hr])]
    simp [State.checked, hr]
  · rw [after_of_none (by simp [h, hr])]
    simp [State.checked, hr]

theorem execRet_eq_after (s : State) : exec .ret s = .next (s.after .ret) := by
  cases h : s.stack with
  | nil => rw [exec_ret_of_nil h, after_of_some (r := .stackUnderflow) (by simp [Instr.haltsWith, h])]
  | cons a rest =>
    rw [exec_ret_of_cons h, after_of_none (by simp [Instr.haltsWith, h])]
    simp [State.completed, h]

theorem execCall_eq_after (nnn : Addr12) (s : State) : exec (.call nnn) s = .next (s.after (.call nnn)) := by
  by_cases h : s.stack.length < 16
  · rw [exec_call_of_lt nnn h, after_of_none (by simp [Instr.haltsWith, h])]
    rfl
  · have hfull : 16 ≤ s.stack.length := Nat.not_lt.1 h
    rw [exec_call_of_full nnn hfull, after_of_some (r := .stackOverflow) (by simp [Instr.haltsWith, hfull])]

/-- Every instruction halts exactly as `haltsWith` says, and completes otherwise (R57, R200). -/
theorem exec_eq_after (i : Instr) (s : State) : exec i s = .next (s.after i) := by
  cases i
  case ret => exact execRet_eq_after s
  case call nnn => exact execCall_eq_after nnn s
  case drw x y n => exact congrArg Host.Outcome.next (checked_eq_after (haltsWith_drw x y s n))
  case bcd x => exact congrArg Host.Outcome.next (checked_eq_after (haltsWith_bcd x s))
  case store x => exact congrArg Host.Outcome.next (checked_eq_after (haltsWith_store x s))
  case load x => exact congrArg Host.Outcome.next (checked_eq_after (haltsWith_load x s))
  all_goals rfl

/-- The inversion of `exec`: the state it answers is the halt, or the completed effect. -/
theorem exec_cases {i : Instr} {s t : State} (h : exec i s = .next t) :
    (∃ r, i.haltsWith s = some r ∧ t = s.halt r) ∨ (i.haltsWith s = none ∧ t = s.completed i) := by
  have ht : t = s.after i := by
    rw [exec_eq_after] at h
    exact (Host.Outcome.next.inj h).symm
  cases hr : i.haltsWith s with
  | some r => exact .inl ⟨r, rfl, ht.trans (after_of_some hr)⟩
  | none => exact .inr ⟨rfl, ht.trans (after_of_none hr)⟩

theorem exec_of_haltsWith_none {i : Instr} {s : State} (h : i.haltsWith s = none) :
    exec i s = .next (s.completed i) := by rw [exec_eq_after, after_of_none h]

theorem exec_of_haltsWith_some {i : Instr} {s : State} {r : HaltReason} (h : i.haltsWith s = some r) :
    exec i s = .next (s.halt r) := by rw [exec_eq_after, after_of_some h]

end Sys2Proof.Machine
end

section
/-! Frames over all instructions: which elements of the state a completed instruction writes, one lemma per element,
and from them the statements about registers, memory, the other elements and the halts. -/

namespace Sys2Proof.Machine

/-! ## The first cycle of FX0A leaves these fields alone -/

section
variable (s : State) (x : Reg)

@[simp] theorem keyStep_i : (s.keyStep x).i = s.i := by unfold State.keyStep; split <;> rfl
@[simp] theorem keyStep_stack : (s.keyStep x).stack = s.stack := by unfold State.keyStep; split <;> rfl
@[simp] theorem keyStep_dt : (s.keyStep x).dt = s.dt := by unfold State.keyStep; split <;> rfl
@[simp] theorem keyStep_st : (s.keyStep x).st = s.st := by unfold State.keyStep; split <;> rfl
@[simp] theorem keyStep_fb : (s.keyStep x).fb = s.fb := by unfold State.keyStep; split <;> rfl
@[simp] theorem keyStep_mem : (s.keyStep x).mem = s.mem := by unfold State.keyStep; split <;> rfl

theorem keyStep_mode : (s.keyStep x).mode = s.mode ∨ (s.keyStep x).mode = .awaitingKey x := by
  unfold State.keyStep
  split
  · exact .inl rfl
  · exact .inr rfl

theorem keyStep_reg_other {q : Reg} (h : q ≠ x) : (s.keyStep x).reg q = s.reg q := by
  unfold State.keyStep
  split
  · exact reg_setReg_other s.answered h _
  · rfl

end

/-! ## The elements of the state, one by one -/

section
variable (s : State) (i : Instr)

theorem completed_fb : (s.completed i).fb = s.fb ∨ i = .cls ∨ ∃ x y n, i = .drw x y n := by
  cases i <;> simp [State.completed]

theorem completed_stack : (s.completed i).stack = s.stack ∨ i = .ret ∨ ∃ nnn, i = .call nnn := by
  cases i <;> simp [State.completed]

theorem completed_dt : (s.completed i).dt = s.dt ∨ ∃ x, i = .ldDt x := by
  cases i <;> simp [State.completed]

theorem completed_st : (s.completed i).st = s.st ∨ ∃ x, i = .ldSt x := by
  cases i <;> simp [State.completed]

theorem indexAfterTransfer_eq (x : Reg) : s.indexAfterTransfer x = s.i ∨ s.config.quirkLoadStoreInc = true := by
  unfold State.indexAfterTransfer
  split
  · exact .inr ‹_›
  · exact .inl rfl

theorem completed_i : (s.completed i).i = s.i ∨ (∃ nnn, i = .ldI nnn) ∨ (∃ x, i = .addI x ∨ i = .ldGlyph x) ∨
    (s.config.quirkLoadStoreInc = true ∧ ∃ x, i = .store x ∨ i = .load x) := by
  cases i
  case store x => exact (indexAfterTransfer_eq s x).imp id fun h => .inr (.inr ⟨h, x, .inl rfl⟩)
  case load x => exact (indexAfterTransfer_eq s x).imp id fun h => .inr (.inr ⟨h, x, .inr rfl⟩)
  all_goals simp [State.completed]

/-- A completed instruction leaves MODE as it is, but that FX0A may begin to wait. -/
theorem completed_mode : (s.completed i).mode = s.mode ∨ ∃ x, i = .ldKey x ∧ (s.completed i).mode = .awaitingKey x := by
  cases i
  case ldKey x => exact (keyStep_mode s x).imp id fun h => ⟨x, rfl, h⟩
  all_goals simp [State.completed]

theorem completed_queries_env : ((s.completed i).queries = s.queries ∧ (s.completed i).env = s.env) ∨
    ∃ x, i = .skp x ∨ i = .sknp x ∨ i = .ldKey x ∨ ∃ nn, i = .rnd x nn := by
  cases i <;> simp [State.completed]

theorem loadRegs_setTick (k : Option Nat) (a n : Nat) :
    State.loadRegs { s with tick := k } a n = { s.loadRegs a n with tick := k } := by
  induction n with
  | zero => rfl
  | succ n ih => simp only [State.loadRegs, ih]; rfl

/-- The tick in progress plays no part in an instruction. -/
theorem completed_setTick (k : Option Nat) :
    State.completed { s with tick := k } i = { s.completed i with tick := k } := by
  cases i
  case ldKey x =>
    show State.keyStep { s with tick := k } x = { s.keyStep x with tick := k }
    cases h : s.reportedKey with
    | none => rw [keyStep_of_none h, keyStep_of_none (s := { s with tick := k }) h]; rfl
    | some q => rw [keyStep_of_some h, keyStep_of_some (s := { s with tick := k }) h]; rfl
  case load x => simp only [State.completed, loadRegs_setTick]; rfl
  all_goals rfl

theorem completed_tick_config : (s.completed i).tick = s.tick ∧ (s.completed i).config = s.config := by
  cases i
  case ldKey x => simp only [State.completed]; unfold State.keyStep; split <;> exact ⟨rfl, rfl⟩
  case load x => simp only [State.completed]; rw [loadRegs_frame]; exact ⟨rfl, rfl⟩
  all_goals exact ⟨rfl, rfl⟩

/-- A completed instruction stores `bytesStored` bytes from I on, and nothing else. -/
theorem completed_mem : ∃ bs : List Byte, bs.length = i.bytesStored ∧
    (s.completed i).mem = Memory.writeBytes s.mem s.i.toNat bs := by
  cases i
  case bcd x => exact ⟨_, bcdDigits_length _, rfl⟩
  case store x => exact ⟨_, firstRegs_length s _, rfl⟩
  all_goals exact ⟨[], rfl, by simp [State.completed, Memory.writeBytes]⟩

/-! ## The general registers (R20, R21) -/

/-- A register other than Vx and VF is as before a flag-writing operation. -/
theorem reg_writeFlagged_other {x q : Reg} (c : Bool) (b : Byte) (hx : q ≠ x) (hf : q ≠ vf) :
    (s.writeFlagged x c b).reg q = s.reg q := by rw [reg_writeFlagged, if_neg hx, if_neg hf]

theorem flag_eq_zero_or_one (c : Bool) : (if c then 1#8 else 0#8) = 0#8 ∨ (if c then 1#8 else 0#8) = 1#8 := by
  cases c
  · exact .inl rfl
  · exact .inr rfl

/-- A VF that is not the destination keeps the flag. -/
theorem reg_writeFlagged_vf {x : Reg} (c : Bool) (b : Byte) (hx : vf ≠ x) :
    (s.writeFlagged x c b).reg vf = 0#8 ∨ (s.writeFlagged x c b).reg vf = 1#8 := by
  rw [reg_writeFlagged, if_neg hx, if_pos rfl]
  exact flag_eq_zero_or_one c

/-- A completed instruction writes no register but its destinations, and VF if it writes a flag. -/
theorem completed_reg_other {q : Reg} (hd : i.isDestination q = false) (hf : q ≠ vf ∨ i.writesFlag = false) :
    (s.completed i).reg q = s.reg q := by
  cases i
  case ldImm x _ | addImm x _ | ldReg x _ | orReg x _ | andReg x _ | xorReg x _ | ldFromDt x =>
    exact reg_setReg_other s (ne_of_beq_false hd) _
  case rnd x _ => exact reg_setReg_other s.answered (ne_of_beq_false hd) _
  case addReg x _ | sub x _ | shr x _ | subn x _ | shl x _ =>
    exact reg_writeFlagged_other s _ _ (ne_of_beq_false hd) (hf.resolve_right nofun)
  case drw x y n =>
    show ((s.setFb _).setFlag _).reg q = s.reg q
    rw [reg_setFlag, if_neg (hf.resolve_right nofun)]
    rfl
  case ldKey x => exact keyStep_reg_other s x (ne_of_beq_false hd)
  case load x =>
    show (s.loadRegs s.i.toNat (x.toNat + 1)).reg q = s.reg q
    have hq : ¬ q.toNat < x.toNat + 1 := fun h => of_decide_eq_false hd (Nat.le_of_lt_succ h)
    rw [loadRegs_reg s s.i.toNat x.isLt q, if_neg hq]
  all_goals rfl

/-- Each of the six leaves a flag in VF, if VF is not its destination. -/
theorem completed_vf (hw : i.writesFlag = true) (hd : i.isDestination vf = false) :
    (s.completed i).reg vf = 0#8 ∨ (s.completed i).reg vf = 1#8 := by
  cases i
  case addReg x _ | sub x _ | shr x _ | subn x _ | shl x _ =>
    exact reg_writeFlagged_vf s _ _ (ne_of_beq_false hd)
  case drw x y n =>
    show ((s.setFb _).setFlag _).reg vf = _ ∨ ((s.setFb _).setFlag _).reg vf = _
    rw [reg_setFlag, if_pos rfl]
    exact flag_eq_zero_or_one _
  all_goals cases hw

end

/-! ## Halts (R57, R200, R207) -/

/-- An instruction that completes leaves a running machine not halted. -/
theorem completed_not_halted {i : Instr} {s : State} (hm : s.mode = .running) (r : HaltReason) :
    (s.completed i).mode ≠ .halted r := by
  rcases completed_mode s i with h | ⟨x, -, h⟩
  · simp [h, hm]
  · simp [h]

theorem exec_halts_iff {i : Instr} {s t : State} {r : HaltReason} (hm : s.mode = .running) (h : exec i s = .next t) :
    t.mode = .halted r ↔ i.haltsWith s = some r := by
  rcases exec_cases h with ⟨q, hq, rfl⟩ | ⟨hn, rfl⟩
  · simp [hq]
  · simp [hn, completed_not_halted hm]

theorem exec_halt_eq {i : Instr} {s t : State} {r : HaltReason} (hm : s.mode = .running) (h : exec i s = .next t)
    (ht : t.mode = .halted r) : t = s.halt r := by
  rw [exec_of_haltsWith_some ((exec_halts_iff hm h).1 ht)] at h
  exact (Host.Outcome.next.inj h).symm

/-- A cycle that halts a running machine is a halt, whether it comes from the fetch, the decoder or the instruction. -/
theorem cycle_halt_eq {s t : State} {r : HaltReason} (hm : s.mode = .running) (h : cycle s = .next t)
    (ht : t.mode = .halted r) : t = s.halt r := by
  have of_halt : ∀ q, cycle s = .next (s.halt q) → t = s.halt r := fun q hq => by
    obtain rfl : s.halt q = t := Host.Outcome.next.inj (hq.symm.trans h)
    obtain rfl : q = r := Mode.halted.inj ht
    rfl
  rcases cycle_cases s with ⟨q, hm', -⟩ | ⟨x, hm', -⟩ | ⟨-, -, hc⟩ | ⟨-, -, -, hc⟩ | ⟨i, -, -, -, hc⟩
  · simp [hm] at hm'
  · simp [hm] at hm'
  · exact of_halt _ hc
  · exact of_halt _ hc
  · exact exec_halt_eq hm (hc.symm.trans h) ht

/-! ## The statements -/

/-- Settles O20 (R57, R200): the state `exec` answers is the halt of `haltsWith`, or the completed effect, which leaves
a running machine running or waiting. -/
theorem haltConditionsExact : Obligations.HaltConditionsExact := fun _ _ _ hm =>
  ⟨fun ⟨_, h, ht⟩ => (exec_halts_iff hm h).1 ht, fun hr => ⟨_, exec_of_haltsWith_some hr, rfl⟩⟩

/-- Settles O21 (R207): the only halted states an instruction or a cycle answers are those `State.halt` makes. -/
theorem haltEntryIsPrecise : Obligations.HaltEntryIsPrecise :=
  ⟨fun _ _ _ _ hm h ht => exec_halt_eq hm h ht,
    fun s _ n _ htick hm h ht => cycle_halt_eq (s := { s with tick := some n }) hm ((step_of_succ htick).symm.trans h) ht⟩

/-- Settles O22 (R20, R21): a halt writes no register; a completed instruction writes its destinations and the flag. -/
theorem registersWritten : Obligations.RegistersWritten := fun i s t h => by
  rcases exec_cases h with ⟨r, hr, rfl⟩ | ⟨-, rfl⟩
  · exact ⟨fun _ _ _ => rfl, fun _ hn => by simp [hr] at hn⟩
  · exact ⟨fun q hd hf => completed_reg_other s i hd hf, fun hw _ hd => completed_vf s i hw hd⟩

/-- Settles O23 (R50, R59): a completed instruction stores `bytesStored` bytes from I on, and a halt stores none. -/
theorem memoryWritten : Obligations.MemoryWritten := fun i s t h a ha => by
  rcases exec_cases h with ⟨r, -, rfl⟩ | ⟨-, rfl⟩
  · rfl
  · obtain ⟨bs, hlen, hmem⟩ := completed_mem s i
    rw [State.byte, hmem]
    exact Memory.read_writeBytes_other _ (hlen ▸ ha)

/-- Settles O24 (R22, R24 to R28, R99): the halt changes MODE alone, and each other element has its own frame lemma. -/
theorem specialStateWritten : Obligations.SpecialStateWritten := fun i s t h => by
  rcases exec_cases h with ⟨r, hr, rfl⟩ | ⟨-, rfl⟩
  · simp [hr]
  · obtain ⟨htick, hconfig⟩ := completed_tick_config s i
    refine ⟨(completed_fb s i).resolve_left, (completed_stack s i).resolve_left, (completed_dt s i).resolve_left,
      (completed_st s i).resolve_left, (completed_i s i).resolve_left,
      fun hm => .inl ((completed_mode s i).resolve_left hm), fun hq => ?_, htick, hconfig⟩
    exact (completed_queries_env s i).resolve_left fun ⟨hqueries, henv⟩ => hq.elim (· hqueries) (· henv)

end Sys2Proof.Machine
end

section
/-! The cycle, the tick and the run of the machine (40_cycle_and_tick.md). -/

namespace Sys2Proof.Machine

/-! ## Every cycle and every step answers a next state (R91, R207) -/

theorem cycle_next (s : State) : ∃ t, cycle s = .next t := by
  rcases cycle_cases s with ⟨_, -, hc⟩ | ⟨_, -, hc⟩ | ⟨-, -, hc⟩ | ⟨-, -, -, hc⟩ | ⟨i, -, -, -, hc⟩
  · exact ⟨_, hc⟩
  · exact ⟨_, hc⟩
  · exact ⟨_, hc⟩
  · exact ⟨_, hc⟩
  · exact ⟨_, hc.trans (exec_eq_after i s)⟩

theorem step_next (s : State) : ∃ t, step s = .next t := by
  rcases step_cases s with ⟨-, hs⟩ | ⟨-, hs⟩ | ⟨n, -, hs⟩
  · exact ⟨_, hs⟩
  · exact ⟨_, hs⟩
  · obtain ⟨t, ht⟩ := cycle_next { s with tick := some n }
    exact ⟨t, hs.trans ht⟩

/-! ## The waiting cycle (R94) -/

theorem awaitStep_of_some {s : State} {k : Nibble} (h : s.reportedKey = some k) (x : Reg) :
    s.awaitStep x = { (s.answered.setReg x (byteOfKey k)).advance with mode := .running } := by
  simp [State.awaitStep, h]

theorem awaitStep_of_none {s : State} (h : s.reportedKey = none) (x : Reg) : s.awaitStep x = s.answered := by
  simp [State.awaitStep, h]

/-- The code of a key as a byte (R185). -/
theorem byteOfKey_eq (k : Nibble) : byteOfKey k = BitVec.ofNat 8 k.toNat :=
  (BitVec.ofNat_toNat 8 k).symm

/-- A waiting cycle is the first cycle of the FX0A, run again. -/
theorem awaitStep_eq_keyStep {s : State} {x : Reg} (hm : s.mode = .awaitingKey x) :
    s.awaitStep x = State.keyStep { s with mode := .running } x := by
  cases h : s.reportedKey with
  | none =>
    rw [awaitStep_of_none h, keyStep_of_none (s := { s with mode := .running }) h]
    simp [State.answered, hm]
  | some k =>
    rw [awaitStep_of_some h, keyStep_of_some (s := { s with mode := .running }) h]
    rfl

/-! ## The tick in progress plays no part in a cycle -/

theorem haltsWith_setTick (s : State) (i : Instr) (k : Option Nat) :
    i.haltsWith { s with tick := k } = i.haltsWith s := by
  cases i <;> rfl

theorem after_setTick (s : State) (i : Instr) (k : Option Nat) :
    State.after { s with tick := k } i = { s.after i with tick := k } := by
  have hk := haltsWith_setTick s i k
  cases h : i.haltsWith s with
  | none => rw [after_of_none h, after_of_none (hk.trans h), completed_setTick]
  | some r => rw [after_of_some h, after_of_some (hk.trans h)]; rfl

theorem awaitStep_setTick (s : State) (x : Reg) (k : Option Nat) :
    State.awaitStep { s with tick := k } x = { s.awaitStep x with tick := k } := by
  cases h : s.reportedKey with
  | none => rw [awaitStep_of_none h, awaitStep_of_none (s := { s with tick := k }) h]; rfl
  | some q => rw [awaitStep_of_some h, awaitStep_of_some (s := { s with tick := k }) h]; rfl

theorem cycle_setTick {s t : State} (h : cycle s = .next t) (k : Option Nat) :
    cycle { s with tick := k } = .next { t with tick := k } := by
  rcases cycle_cases s with ⟨_, hm, hc⟩ | ⟨x, hm, hc⟩ | ⟨hm, hp, hc⟩ | ⟨hm, hp, hd, hc⟩ | ⟨i, hm, hp, hd, hc⟩
  · cases hc.symm.trans h
    exact cycle_of_halted hm
  · cases hc.symm.trans h
    rw [cycle_of_awaitingKey (s := { s with tick := k }) hm, awaitStep_setTick]
  · cases hc.symm.trans h
    exact cycle_of_pc_high (s := { s with tick := k }) hm hp
  · cases hc.symm.trans h
    exact cycle_of_unsupported (s := { s with tick := k }) hm hp hd
  · cases (hc.trans (exec_eq_after i s)).symm.trans h
    rw [cycle_of_op (s := { s with tick := k }) hm hp hd, exec_eq_after, after_setTick]

/-- A cycle leaves the tick in progress as it is. -/
theorem cycle_tick {s t : State} (h : cycle s = .next t) : t.tick = s.tick := by
  have hk : cycle s = .next { t with tick := s.tick } := cycle_setTick h s.tick
  have ht := Host.Outcome.next.inj (h.symm.trans hk)
  rw [ht]

/-! ## A tick is its steps (R96) -/

theorem cycles_succ {s t : State} (n : Nat) (h : cycle s = .next t) : cycles (n + 1) s = cycles n t := by
  simp [cycles, h]

theorem tick_zero (s : State) : tick 0 s = .next s.decayTimers := rfl

theorem tick_succ {s t : State} (n : Nat) (h : cycle s = .next t) : tick (n + 1) s = tick n t := by
  simp [tick, cycles_succ n h]

/-- Inside a tick with `n` cycles left, `n + 1` steps run these cycles and the decay. -/
theorem run_in_tick (n : Nat) (s : State) (h : s.tick = some n) :
    Host.Core.run Sys2Proof.core (n + 1) s = tick n { s with tick := none } := by
  induction n generalizing s with
  | zero =>
    rw [run_succ 0 (step_of_zero h), run_zero, tick_zero]
    rfl
  | succ n ih =>
    obtain ⟨t, ht⟩ := cycle_next { s with tick := some n }
    have htick : t.tick = some n := cycle_tick ht
    rw [run_succ (n + 1) ((step_of_succ h).trans ht), ih t htick]
    exact (tick_succ n (cycle_setTick ht none)).symm

/-! ## The timers (R97) -/

@[simp] theorem decay_toNat (t : Byte) : (decay t).toNat = t.toNat - 1 := by
  unfold decay
  split
  · next h => simp [h]
  · next h =>
    have ht : t.toNat ≠ 0 := fun h' => h (BitVec.eq_of_toNat_eq h')
    rw [BitVec.toNat_sub_of_le (by rw [BitVec.le_def]; simp; omega)]
    rfl

theorem tick_of_halted {s : State} {r : HaltReason} (hm : s.mode = .halted r) (n : Nat) :
    tick n s = .next s.decayTimers := by
  induction n with
  | zero => exact tick_zero s
  | succ n ih => rw [tick_succ n (cycle_of_halted hm), ih]

/-- The only change from `s` to `t` is that each timer is lower by `k`, floored at 0. -/
def State.decayedBy (s t : State) (k : Nat) : Prop :=
  t.dt.toNat = s.dt.toNat - k ∧ t.st.toNat = s.st.toNat - k ∧ t = { s with dt := t.dt, st := t.st }

theorem decayedBy_zero (s : State) : s.decayedBy s 0 := ⟨rfl, rfl, rfl⟩

theorem decayedBy_succ {s t : State} {k : Nat} (h : s.decayTimers.decayedBy t k) : s.decayedBy t (k + 1) := by
  obtain ⟨hdt, hst, ht⟩ := h
  refine ⟨?_, ?_, ht⟩
  · rw [hdt, decayTimers_dt, decay_toNat]; omega
  · rw [hst, decayTimers_st, decay_toNat]; omega

/-- A tick in which no instruction runs is one decay. -/
theorem tick_idle {s : State} {batch : Nat} (h : (∃ r, s.mode = .halted r) ∨ batch = 0) :
    tick batch s = .next s.decayTimers := by
  rcases h with ⟨_, hm⟩ | rfl
  · exact tick_of_halted hm batch
  · exact tick_zero s

theorem ticks_idle (batches : List Nat) (s : State) (h : (∃ r, s.mode = .halted r) ∨ ∀ b ∈ batches, b = 0) :
    ∃ t, ticks batches s = .next t ∧ s.decayedBy t batches.length := by
  induction batches generalizing s with
  | nil => exact ⟨s, rfl, decayedBy_zero s⟩
  | cons b rest ih =>
    have htick : tick b s = .next s.decayTimers := tick_idle (h.imp_right fun hb => hb b (by simp))
    obtain ⟨t, ht, hd⟩ := ih s.decayTimers (h.imp_right fun hb c hc => hb c (by simp [hc]))
    exact ⟨t, by simp [ticks, htick, ht], decayedBy_succ hd⟩

/-! ## A halted machine (R207, R208) -/

/-- From `s` to `t` nothing changed but the model's own counters and the timers, and these went down. -/
def State.aged (s t : State) : Prop :=
  t = { s with dt := t.dt, st := t.st, tick := t.tick, env := t.env, queries := t.queries } ∧
    t.dt.toNat ≤ s.dt.toNat ∧ t.st.toNat ≤ s.st.toNat

theorem aged_refl (s : State) : s.aged s := ⟨rfl, le_rfl, le_rfl⟩

theorem aged_trans {s t u : State} (h : s.aged t) (h' : t.aged u) : s.aged u := by
  obtain ⟨ht, hdt, hst⟩ := h
  obtain ⟨hu, hdt', hst'⟩ := h'
  refine ⟨?_, hdt'.trans hdt, hst'.trans hst⟩
  rw [ht] at hu
  exact hu

theorem aged_mode {s t : State} (h : s.aged t) : t.mode = s.mode := by rw [h.1]

theorem step_of_halted {s : State} {r : HaltReason} (hm : s.mode = .halted r) : ∃ t, step s = .next t ∧ s.aged t := by
  rcases step_cases s with ⟨-, hs⟩ | ⟨-, hs⟩ | ⟨n, -, hs⟩
  · exact ⟨_, hs, rfl, le_rfl, le_rfl⟩
  · exact ⟨_, hs, rfl, by simp, by simp⟩
  · exact ⟨_, hs.trans (cycle_of_halted hm), rfl, le_rfl, le_rfl⟩

/-! ## The statements -/

/-- Settles O5 (R55, R91, R96): the word of the two bytes is the fetched one. -/
theorem stepRunsDecodedInstruction : Obligations.StepRunsDecodedInstruction := fun s n h => by
  refine ⟨step_of_succ h, fun i hm hp hd => ?_⟩
  have hw : BitVec.ofNat 16 ((s.byte s.pc.toNat).toNat * 256 + (s.byte (s.pc.toNat + 1)).toNat) = s.fetchWord := by
    rw [← wordOfBytes_toNat, BitVec.ofNat_toNat, BitVec.setWidth_eq]
    rfl
  rw [hw] at hd
  rw [step_of_succ h]
  exact cycle_of_op (s := { s with tick := some n }) hm hp hd

/-- Settles O7 (R57, R206): the range check precedes the fetch. -/
theorem fetchBeyondMemoryHalts : Obligations.FetchBeyondMemoryHalts := fun _ => cycle_of_pc_high

/-- Settles O9 (R94): the two outcomes of the poll, a key stored or the answer used up. -/
theorem keyWaitCycle : Obligations.KeyWaitCycle := fun s x hm => by
  refine ⟨fun k hk => ?_, fun hk => ?_⟩
  · rw [cycle_of_awaitingKey hm, awaitStep_of_some hk]
    refine ⟨_, rfl, fun r => ?_, rfl, rfl, rfl⟩
    exact byteOfKey_eq k ▸ reg_setReg s.answered x r _
  · rw [cycle_of_awaitingKey hm, awaitStep_of_none hk]
    rfl

/-- Settles O10 (R96, R97): the step between ticks is the call, and the step with no cycle left the decay. -/
theorem tickBoundaries : Obligations.TickBoundaries :=
  ⟨fun _ => step_of_none, fun s h => ⟨_, step_of_zero h, decay_toNat s.dt, decay_toNat s.st, rfl⟩⟩

/-- Settles O11 (R96): after the call, by induction on the cycles left; a cycle does not see the tick counter. -/
theorem stepsOfATickAreTheTick : Obligations.StepsOfATickAreTheTick := fun s h => by
  rw [run_succ _ (step_of_none h), run_in_tick s.answer.batch s.beginTick rfl, ← h]
  rfl

/-- Settles O12 (R207, R208): by induction on the steps, each of which keeps the mode and so the hypothesis. -/
theorem haltedIsSticky : Obligations.HaltedIsSticky := by
  intro k
  induction k with
  | zero => exact fun s _ _ => ⟨s, rfl, aged_refl s⟩
  | succ k ih =>
    intro s r hm
    obtain ⟨t, hstep, haged⟩ := step_of_halted hm
    obtain ⟨u, hrun, haged'⟩ := ih t r ((aged_mode haged).trans hm)
    exact ⟨u, (run_succ k hstep).trans hrun, aged_trans haged haged'⟩

/-- Settles O13 (R97): by induction on the batches, each tick being one decay. -/
theorem timersFallByOnePerTick : Obligations.TimersFallByOnePerTick := ticks_idle

/-- Settles O14 (R91, R207): `exec` answers the halt or the completed effect, and each way a step goes a next state. -/
theorem everyStepAnswersNext : Obligations.EveryStepAnswersNext :=
  ⟨fun i s => ⟨_, exec_eq_after i s⟩, step_next⟩

/-- Settles O19 (R94): the invariant says that the fetch finds the FX0A, whose first cycle is the waiting cycle. -/
theorem keyWaitCycleEqualsRefetch : Obligations.KeyWaitCycleEqualsRefetch := fun s x hinv hm => by
  obtain ⟨hp, hd⟩ := hinv x hm
  rw [cycle_of_awaitingKey hm, cycle_of_op (s := { s with mode := .running }) rfl hp hd,
    awaitStep_eq_keyStep hm]
  rfl

end Sys2Proof.Machine
end

section
/-! The three invariants (R23, R24, R28, R50): what a step is made of keeps each of them, and so does the step. -/

namespace Sys2Proof.Machine

/-! ## The induction step over what a step can be -/

/-- A predicate that every part of a step keeps: the host's call, the decay, the count of cycles, a waiting cycle, a
halt, and an instruction that was fetched at PC and completes. -/
structure KeptByParts (P : State → Prop) : Prop where
  beginTick : ∀ {s}, P s → P s.beginTick
  endTick : ∀ {s}, P s → P s.endTick
  setTick : ∀ {s} k, P s → P { s with tick := k }
  awaitStep : ∀ {s x}, s.mode = .awaitingKey x → P s → P (s.awaitStep x)
  halt : ∀ {s} r, P s → P (s.halt r)
  completed : ∀ {s i}, s.mode = .running → s.pc.toNat ≤ 0xFFE → decode s.fetchWord = .op i → i.haltsWith s = none →
    P s → P (s.completed i)

theorem KeptByParts.cycle {P : State → Prop} (hP : KeptByParts P) {s t : State} (hs : P s) (h : cycle s = .next t) :
    P t := by
  rcases cycle_cases s with ⟨_, -, hc⟩ | ⟨x, hm, hc⟩ | ⟨-, -, hc⟩ | ⟨-, -, -, hc⟩ | ⟨i, hm, hp, hd, hc⟩
  · cases hc.symm.trans h; exact hs
  · cases hc.symm.trans h; exact hP.awaitStep hm hs
  · cases hc.symm.trans h; exact hP.halt _ hs
  · cases hc.symm.trans h; exact hP.halt _ hs
  · rcases exec_cases (hc.symm.trans h) with ⟨r, -, rfl⟩ | ⟨hn, rfl⟩
    · exact hP.halt r hs
    · exact hP.completed hm hp hd hn hs

theorem KeptByParts.step {P : State → Prop} (hP : KeptByParts P) (s t : State) (hs : P s) (h : step s = .next t) :
    P t := by
  rcases step_cases s with ⟨-, hc⟩ | ⟨-, hc⟩ | ⟨n, -, hc⟩
  · cases hc.symm.trans h; exact hP.beginTick hs
  · cases hc.symm.trans h; exact hP.endTick hs
  · exact hP.cycle (hP.setTick _ hs) (hc.symm.trans h)

/-! ## What a waiting cycle keeps -/

theorem awaitStep_mem (s : State) (x : Reg) : (s.awaitStep x).mem = s.mem := by
  unfold State.awaitStep; split <;> rfl

theorem awaitStep_stack (s : State) (x : Reg) : (s.awaitStep x).stack = s.stack := by
  unfold State.awaitStep; split <;> rfl

/-- A waiting cycle either ends the wait and advances, or changes nothing but the count of answers. -/
theorem awaitStep_cases (s : State) (x : Reg) :
    ((s.awaitStep x).mode = .running ∧ (s.awaitStep x).pc = s.pc + 2#16) ∨ s.awaitStep x = s.answered := by
  unfold State.awaitStep
  split
  · exact .inl ⟨rfl, rfl⟩
  · exact .inr rfl

/-! ## The canonical form of memory (R50, R57) -/

/-- An instruction that completes stores within the address space. -/
theorem stored_within_memory {i : Instr} {s : State} (h : i.haltsWith s = none) :
    i.bytesStored = 0 ∨ s.i.toNat + i.bytesStored ≤ 4096 := by
  cases i
  case bcd x =>
    rw [haltsWith_bcd] at h
    exact (rangeOk_iff _ 3).1 (by simpa using h)
  case store x =>
    rw [haltsWith_store] at h
    exact (rangeOk_iff _ (x.toNat + 1)).1 (by simpa using h)
  all_goals exact .inl rfl

theorem completed_memoryCanonical {i : Instr} {s : State} (hn : i.haltsWith s = none) (hs : s.memoryCanonical) :
    (s.completed i).memoryCanonical := by
  obtain ⟨bs, hlen, hmem⟩ := completed_mem s i
  unfold State.memoryCanonical
  rw [hmem]
  rcases stored_within_memory hn with h0 | hle
  · rw [List.length_eq_zero_iff.1 (hlen.trans h0)]
    exact hs
  · exact Memory.wf_writeBytes hs (hlen ▸ hle)

theorem keptByParts_memoryCanonical : KeptByParts State.memoryCanonical where
  beginTick hs := hs
  endTick hs := hs
  setTick _ hs := hs
  awaitStep {s x} _ hs := by
    unfold State.memoryCanonical
    rw [awaitStep_mem]
    exact hs
  halt _ hs := hs
  completed _ _ _ hn hs := completed_memoryCanonical hn hs

/-! ## The bounds of the control state (R23, R24) -/

theorem advance_pc_le {p : Word} (h : p.toNat ≤ 0xFFE) : (p + 2#16).toNat ≤ 0x1000 := by
  rw [BitVec.toNat_add_of_lt (by simp; omega)]
  simp; omega

theorem skip_pc_le {p : Word} (h : p.toNat ≤ 0xFFE) : (p + 4#16).toNat ≤ 0x1002 := by
  rw [BitVec.toNat_add_of_lt (by simp; omega)]
  simp; omega

theorem skipIf_pc_le {s : State} (h : s.pc.toNat ≤ 0xFFE) (c : Bool) : (s.skipIf c).pc.toNat ≤ 0x10FE := by
  cases c
  · exact (advance_pc_le h).trans (by decide)
  · exact (skip_pc_le h).trans (by decide)

theorem addrOfImm_le (nnn : Addr12) : (addrOfImm nnn).toNat ≤ 0xFFF := by
  rw [addrOfImm_toNat]
  exact Nat.le_of_lt_succ nnn.isLt

@[simp] theorem wordOfByte_toNat (b : Byte) : (wordOfByte b).toNat = b.toNat :=
  BitVec.toNat_setWidth_of_le (by decide)

/-- The target of JP V0 is the plain sum: 16 bits hold it (R117). -/
theorem offset_toNat (nnn : Addr12) (b : Byte) : (addrOfImm nnn + wordOfByte b).toNat = nnn.toNat + b.toNat := by
  have hn := nnn.isLt
  have hb := b.isLt
  rw [BitVec.toNat_add_of_lt] <;> rw [addrOfImm_toNat, wordOfByte_toNat]
  omega

theorem keyStep_pc_cases (s : State) (x : Reg) : (s.keyStep x).pc = s.pc + 2#16 ∨ (s.keyStep x).pc = s.pc := by
  unfold State.keyStep
  split
  · exact .inl rfl
  · exact .inr rfl

/-- An instruction fetched within memory leaves PC at the next one, the one after, a jump target, an entry of the stack
or where it was. -/
theorem completed_pc_le {i : Instr} {s : State} (hn : i.haltsWith s = none) (hp : s.pc.toNat ≤ 0xFFE)
    (hst : ∀ a ∈ s.stack, a.toNat ≤ 0x1000) : (s.completed i).pc.toNat ≤ 0x10FE := by
  have hnext : (s.pc + 2#16).toNat ≤ 0x10FE := (advance_pc_le hp).trans (by decide)
  cases i
  case jp nnn | call nnn => exact (addrOfImm_le nnn).trans (by decide)
  case jpV0 nnn =>
    have hn := nnn.isLt
    have hb := (s.reg 0x0#4).isLt
    show (addrOfImm nnn + wordOfByte (s.reg 0x0#4)).toNat ≤ 0x10FE
    rw [offset_toNat]
    omega
  case ret =>
    cases hs : s.stack with
    | nil => simp [Instr.haltsWith, hs] at hn
    | cons a rest =>
      simp only [State.completed, hs, List.headD_cons]
      exact (hst a (by simp [hs])).trans (by decide)
  case seImm | sneImm | seReg | sneReg | skp | sknp => exact skipIf_pc_le hp _
  case ldKey x =>
    rcases keyStep_pc_cases s x with h | h
    · exact h ▸ hnext
    · exact h ▸ hp.trans (by decide)
  case load x => simpa [State.completed] using hnext
  all_goals exact hnext

theorem completed_stack_bounded {i : Instr} {s : State} (hn : i.haltsWith s = none) (hp : s.pc.toNat ≤ 0xFFE)
    (hlen : s.stack.length ≤ 16) (hst : ∀ a ∈ s.stack, a.toNat ≤ 0x1000) :
    (s.completed i).stack.length ≤ 16 ∧ ∀ a ∈ (s.completed i).stack, a.toNat ≤ 0x1000 := by
  rcases completed_stack s i with h | rfl | ⟨nnn, rfl⟩
  · rw [h]
    exact ⟨hlen, hst⟩
  · exact ⟨(List.tail_sublist _).length_le.trans hlen, fun a ha => hst a (List.mem_of_mem_tail ha)⟩
  · have hlt : s.stack.length < 16 := by simpa [Instr.haltsWith] using hn
    refine ⟨hlt, fun a ha => ?_⟩
    rcases List.mem_cons.1 ha with rfl | ha
    · exact advance_pc_le hp
    · exact hst a ha

/-- A running machine begins to wait by FX0A alone, which leaves PC and memory as they are (R185). -/
theorem completed_awaitingKey {i : Instr} {s : State} {x : Reg} (hm : s.mode = .running)
    (h : (s.completed i).mode = .awaitingKey x) :
    i = .ldKey x ∧ s.completed i = { s.answered with mode := .awaitingKey x } := by
  rcases completed_mode s i with h' | ⟨y, rfl, h'⟩
  · simp [h', hm] at h
  · obtain rfl : y = x := Mode.awaitingKey.inj (h'.symm.trans h)
    refine ⟨rfl, ?_⟩
    cases hk : s.reportedKey with
    | none => exact keyStep_of_none hk y
    | some k =>
      have hstep : s.completed (.ldKey y) = (s.answered.setReg y (byteOfKey k)).advance := keyStep_of_some hk y
      simp [hstep, hm] at h

theorem keptByParts_controlBounded : KeptByParts State.controlBounded where
  beginTick hs := hs
  endTick hs := hs
  setTick _ hs := hs
  awaitStep {s x} hm hs := by
    obtain ⟨hlen, hst, -, hwait⟩ := hs
    have hp := hwait x hm
    rcases awaitStep_cases s x with ⟨hrun, hpc⟩ | h
    · refine ⟨?_, ?_, ?_, fun y hy => ?_⟩
      · rwa [awaitStep_stack]
      · rwa [awaitStep_stack]
      · rw [hpc]; exact (advance_pc_le hp).trans (by decide)
      · simp [hrun] at hy
    · rw [h]
      exact ⟨hlen, hst, hp.trans (by decide), hwait⟩
  halt {s} r hs := by
    obtain ⟨hlen, hst, hp, -⟩ := hs
    exact ⟨hlen, hst, hp, fun y hy => by simp at hy⟩
  completed {s i} hm hp _ hn hs := by
    obtain ⟨hlen, hst, -, -⟩ := hs
    obtain ⟨hlen', hst'⟩ := completed_stack_bounded hn hp hlen hst
    refine ⟨hlen', hst', completed_pc_le hn hp hst, fun x hx => ?_⟩
    rw [(completed_awaitingKey hm hx).2]
    exact hp

/-! ## The FX0A in progress (R28, R94) -/

theorem keptByParts_keyWaitAtFx0a : KeptByParts State.keyWaitAtFx0a where
  beginTick hs := hs
  endTick hs := hs
  setTick _ hs := hs
  awaitStep {s x} _ hs y hy := by
    rcases awaitStep_cases s x with ⟨hrun, -⟩ | h
    · simp [hrun] at hy
    · rw [h] at hy ⊢
      exact hs y hy
  halt _ _ _ hy := by simp at hy
  completed {s i} hm hp hd _ _ x hx := by
    obtain ⟨rfl, h⟩ := completed_awaitingKey hm hx
    rw [h]
    exact ⟨hp, hd⟩

/-! ## The statements -/

/-- Settles O15 (R50, R57): the one instruction effect on memory is a store that passed the range check. -/
theorem stepKeepsMemoryCanonical : Obligations.StepKeepsMemoryCanonical := keptByParts_memoryCanonical.step

/-- Settles O16 (R23, R24): what is fetched within memory pushes at most 0x1000, and jumps at most to 0xFFF + 0xFF. -/
theorem stepKeepsControlBounded : Obligations.StepKeepsControlBounded := keptByParts_controlBounded.step

/-- Settles O17 (R28, R94): a wait begins at the FX0A just fetched, and a waiting cycle leaves PC and memory alone. -/
theorem stepKeepsKeyWaitAtFx0a : Obligations.StepKeepsKeyWaitAtFx0a := keptByParts_keyWaitAtFx0a.step

/-- Settles O18: memory lists nothing, the stack is empty, PC is 0x200, and the machine runs. -/
theorem resetMeetsInvariants : Obligations.ResetMeetsInvariants :=
  ⟨⟨List.Pairwise.nil, nofun⟩, ⟨Nat.zero_le _, nofun, by decide, nofun⟩, nofun⟩

end Sys2Proof.Machine
end

section
/-! Control transfer (41_control_flow.md): calls and returns, the skips on two registers, the jump with an offset. -/

namespace Sys2Proof.Machine

/-! ## Meanings (R115, R116, R117) -/

theorem exec_seReg (x y : Reg) (s : State) : exec (.seReg x y) s = .next (s.skipIf (s.reg x == s.reg y)) := rfl

theorem exec_sneReg (x y : Reg) (s : State) : exec (.sneReg x y) s = .next (s.skipIf (s.reg x != s.reg y)) := rfl

theorem exec_jpV0 (nnn : Addr12) (s : State) :
    exec (.jpV0 nnn) s = .next (s.jump (addrOfImm nnn + wordOfByte (s.reg 0x0#4))) := rfl

/-! ## The statements -/

/-- Settles O26 (R112): below 16 entries CALL is the push of PC + 2, then the jump. -/
theorem callPushesReturnAddress : Obligations.CallPushesReturnAddress := fun nnn _ =>
  ⟨decode_call nnn, fun hlt => ⟨_, exec_call_of_lt nnn hlt, rfl, addrOfImm_toNat nnn, rfl, fun _ => rfl⟩⟩

/-- Settles O27 (R110): RET takes the last entry off the stack and into PC. -/
theorem returnPopsIntoPc : Obligations.ReturnPopsIntoPc :=
  ⟨decode_ret, fun _ _ _ h => ⟨_, exec_ret_of_cons h, rfl, rfl, rfl, fun _ => rfl⟩⟩

/-- Settles O29 (R110, R112): the return meets the entry the call pushed on the old stack. -/
theorem callThenReturnResumes : Obligations.CallThenReturnResumes := fun nnn _ _ hlt h u hu => by
  obtain rfl := Host.Outcome.next.inj ((exec_call_of_lt nnn hlt).symm.trans h)
  exact ⟨_, exec_ret_of_cons hu, rfl, rfl⟩

/-- Settles O31 (R115, R116): both are the conditional skip; the decoder tests the last digit of both. -/
theorem skipOnRegisters : Obligations.SkipOnRegisters := fun x y s =>
  ⟨decode_seReg x y, decode_sneReg x y,
    fun n hn => ⟨(decode_family5 x y n).trans (if_neg hn), (decode_family9 x y n).trans (if_neg hn)⟩,
    ⟨_, exec_seReg x y s, skipIf_beq_pc s _ _, onlyPc_skipIf s _⟩,
    ⟨_, exec_sneReg x y s, skipIf_bne_pc s _ _, onlyPc_skipIf s _⟩⟩

/-- Settles O32 (R117): 16 bits hold the sum of 12 bits and 8 bits. -/
theorem jumpWithOffset : Obligations.JumpWithOffset := fun nnn s =>
  ⟨decode_jpV0 nnn, _, exec_jpV0 nnn s, offset_toNat nnn _, onlyPc_jump s _⟩

end Sys2Proof.Machine
end

section
/-! The flag-writing arithmetic (42_alu.md): sums, differences and shifts, with the flag written before the result. -/

namespace Sys2Proof.Machine

/-! ## Meanings: flag, result, `next` (R130, R137 to R141) -/

theorem exec_addReg (x y : Reg) (s : State) : exec (.addReg x y) s =
    .next (s.writeFlagged x (carry (s.reg x) (s.reg y)) (s.reg x + s.reg y)) := rfl

theorem exec_sub (x y : Reg) (s : State) : exec (.sub x y) s =
    .next (s.writeFlagged x (notBorrow (s.reg x) (s.reg y)) (s.reg x - s.reg y)) := rfl

theorem exec_subn (x y : Reg) (s : State) : exec (.subn x y) s =
    .next (s.writeFlagged x (notBorrow (s.reg y) (s.reg x)) (s.reg y - s.reg x)) := rfl

theorem exec_shr (x y : Reg) (s : State) : exec (.shr x y) s =
    .next (s.writeFlagged x (shiftedOutRight (s.shiftOperand x y)) (s.shiftOperand x y >>> 1)) := rfl

theorem exec_shl (x y : Reg) (s : State) : exec (.shl x y) s =
    .next (s.writeFlagged x (shiftedOutLeft (s.shiftOperand x y)) (s.shiftOperand x y <<< 1)) := rfl

/-! ## What a flag-writing operation does and leaves unchanged -/

/-- The registers after a flag-writing operation, by the values that result and flag are claimed to have. -/
theorem reg_writeFlagged_eq (s : State) (x : Reg) {c : Bool} {b result flag : Byte} (hb : b = result)
    (hc : (if c then 1#8 else 0#8) = flag) (r : Reg) :
    (s.writeFlagged x c b).reg r = if r = x then result else if r = vf then flag else s.reg r := by
  rw [reg_writeFlagged, hb, hc]

theorem onlyRegsPc_writeFlagged (s : State) (x : Reg) (c : Bool) (b : Byte) :
    s.onlyRegsPc (s.writeFlagged x c b) := ⟨rfl, fun _ => rfl⟩

/-! ## Results and flags as numbers (R137 to R142) -/

theorem add_eq_ofNat (a b : Byte) : a + b = BitVec.ofNat 8 ((a.toNat + b.toNat) % 256) := by
  apply BitVec.eq_of_toNat_eq
  simp

theorem carry_flag (a b : Byte) :
    (if carry a b then 1#8 else 0#8) = if a.toNat + b.toNat > 255 then 1#8 else 0#8 := by simp [carry]

theorem sub_eq_ofInt (a b : Byte) : a - b = BitVec.ofInt 8 ((a.toNat - b.toNat : Int) % 256) := by
  apply BitVec.eq_of_toNat_eq
  have ha := a.isLt
  have hb := b.isLt
  rw [BitVec.toNat_sub, BitVec.toNat_ofInt]
  omega

theorem notBorrow_flag (a b : Byte) :
    (if notBorrow a b then 1#8 else 0#8) = if a.toNat ≥ b.toNat then 1#8 else 0#8 := by simp [notBorrow]

theorem shiftRight_eq_ofNat (b : Byte) : b >>> 1 = BitVec.ofNat 8 (b.toNat / 2) := by
  apply BitVec.eq_of_toNat_eq
  have := b.isLt
  rw [BitVec.toNat_ushiftRight, Nat.shiftRight_eq_div_pow, BitVec.toNat_ofNat]
  omega

/-- A bit of a byte, written as a flag. -/
theorem bit_flag (b : Byte) (k : Nat) :
    (if b.getLsbD k then 1#8 else 0#8) = BitVec.ofNat 8 (b.toNat / 2 ^ k % 2) := by
  rw [BitVec.getLsbD, Nat.testBit_eq_decide_div_mod_eq]
  rcases Nat.mod_two_eq_zero_or_one (b.toNat / 2 ^ k) with h | h <;> simp [h]

theorem shiftedOutRight_flag (b : Byte) : (if shiftedOutRight b then 1#8 else 0#8) = BitVec.ofNat 8 (b.toNat % 2) := by
  rw [shiftedOutRight, bit_flag, pow_zero, Nat.div_one]

theorem shiftLeft_eq_ofNat (b : Byte) : b <<< 1 = BitVec.ofNat 8 (b.toNat * 2 % 256) := by
  apply BitVec.eq_of_toNat_eq
  rw [BitVec.toNat_shiftLeft, Nat.shiftLeft_eq, BitVec.toNat_ofNat]
  omega

theorem shiftedOutLeft_flag (b : Byte) : (if shiftedOutLeft b then 1#8 else 0#8) = BitVec.ofNat 8 (b.toNat / 128) := by
  have hb := b.isLt
  rw [shiftedOutLeft, bit_flag, show (2 : Nat) ^ 7 = 128 from rfl, Nat.mod_eq_of_lt (by omega)]

/-! ## The statements -/

/-- Settles O36 (R137): the 8-bit sum and the carry as numbers, in the order of `writeFlagged`. -/
theorem addWithCarry : Obligations.AddWithCarry := fun x y s =>
  ⟨decode_addReg x y, _, exec_addReg x y s, reg_writeFlagged_eq s x (add_eq_ofNat _ _) (carry_flag _ _), rfl,
    onlyRegsPc_writeFlagged s x _ _⟩

/-- Settles O37 (R138, R140, R142): the 8-bit difference is that of the integers modulo 256, for both orders of the
operands. -/
theorem subtractWithNotBorrow : Obligations.SubtractWithNotBorrow := fun x y s =>
  ⟨decode_sub x y, decode_subn x y,
    ⟨_, exec_sub x y s, reg_writeFlagged_eq s x (sub_eq_ofInt _ _) (notBorrow_flag _ _), rfl,
      onlyRegsPc_writeFlagged s x _ _⟩,
    ⟨_, exec_subn x y s, reg_writeFlagged_eq s x (sub_eq_ofInt _ _) (notBorrow_flag _ _), rfl,
      onlyRegsPc_writeFlagged s x _ _⟩⟩

/-- Settles O38 (R139, R141): the operand of the statement is the model's `shiftOperand`, whatever the quirk setting. -/
theorem shiftByOne : Obligations.ShiftByOne := by
  rintro x y s o rfl
  exact ⟨decode_shr x y, decode_shl x y,
    ⟨_, exec_shr x y s, reg_writeFlagged_eq s x (shiftRight_eq_ofNat _) (shiftedOutRight_flag _), rfl,
      onlyRegsPc_writeFlagged s x _ _⟩,
    ⟨_, exec_shl x y s, reg_writeFlagged_eq s x (shiftLeft_eq_ofNat _) (shiftedOutLeft_flag _), rfl,
      onlyRegsPc_writeFlagged s x _ _⟩⟩

end Sys2Proof.Machine
end

section
/-! Index register and memory (43_index_memory.md): addresses in I, and the accesses through I. -/

namespace Sys2Proof.Machine

/-! ## Meanings (R151, R152) -/

theorem exec_addI (x : Reg) (s : State) : exec (.addI x) s = .next (s.setI (s.i + wordOfByte (s.reg x))).advance := rfl

theorem exec_ldGlyph (x : Reg) (s : State) :
    exec (.ldGlyph x) s = .next (s.setI (glyphAddress (glyphIndex (s.reg x)))).advance := rfl

/-! ## Meanings of the accesses through I, within memory and beyond (R57, R153 to R155) -/

section
variable (x y : Reg) (n : Nibble) {s : State}

theorem exec_bcd_of_le (h : s.i.toNat + 2 ≤ 0xFFF) :
    exec (.bcd x) s = .next (s.storeBytes s.i.toNat (bcdDigits (s.reg x))).advance :=
  exec_of_haltsWith_none (by simp [Instr.haltsWith, Nat.not_lt.2 h])

theorem exec_store_of_le (h : s.i.toNat + x.toNat ≤ 0xFFF) : exec (.store x) s =
    .next ((s.storeBytes s.i.toNat (s.firstRegs (x.toNat + 1))).setI (s.indexAfterTransfer x)).advance :=
  exec_of_haltsWith_none (by simp [Instr.haltsWith, Nat.not_lt.2 h])

theorem exec_load_of_le (h : s.i.toNat + x.toNat ≤ 0xFFF) : exec (.load x) s =
    .next ((s.loadRegs s.i.toNat (x.toNat + 1)).setI (s.indexAfterTransfer x)).advance :=
  exec_of_haltsWith_none (by simp [Instr.haltsWith, Nat.not_lt.2 h])

theorem exec_drw_of_gt (hn : n ≠ 0#4) (h : s.i.toNat + n.toNat - 1 > 0xFFF) :
    exec (.drw x y n) s = .next (s.halt .addressOutOfRange) := by
  have hpos : n.toNat > 0 := Nat.pos_of_ne_zero fun h0 => hn (BitVec.eq_of_toNat_eq h0)
  exact exec_of_haltsWith_some (if_pos ⟨hpos, h⟩)

theorem exec_bcd_of_gt (h : s.i.toNat + 2 > 0xFFF) : exec (.bcd x) s = .next (s.halt .addressOutOfRange) :=
  exec_of_haltsWith_some (if_pos h)

theorem exec_store_of_gt (h : s.i.toNat + x.toNat > 0xFFF) :
    exec (.store x) s = .next (s.halt .addressOutOfRange) := exec_of_haltsWith_some (if_pos h)

theorem exec_load_of_gt (h : s.i.toNat + x.toNat > 0xFFF) :
    exec (.load x) s = .next (s.halt .addressOutOfRange) := exec_of_haltsWith_some (if_pos h)

end

/-! ## Addresses (R22, R151, R152, R154) -/

theorem glyphIndex_toNat (b : Byte) : (glyphIndex b).toNat = b.toNat % 16 := by simp [glyphIndex]

theorem glyphAddress_toNat (d : Nibble) : (glyphAddress d).toNat = 5 * d.toNat := by
  have hd := d.isLt
  rw [glyphAddress, BitVec.toNat_ofNat, Nat.mod_eq_of_lt (by omega)]

theorem indexAfterTransfer_toNat (s : State) (x : Reg) : (s.indexAfterTransfer x).toNat =
    if s.config.quirkLoadStoreInc then (s.i.toNat + x.toNat + 1) % 65536 else s.i.toNat := by
  unfold State.indexAfterTransfer
  split
  · simp [Nat.add_assoc]
  · rfl

/-! ## Stores and loads through I -/

/-- Register `r` of those that FX55 stores is the byte at its place. -/
theorem storeBytes_firstRegs_byte {s : State} (hm : s.memoryCanonical) (a : Nat) {n : Nat} {r : Reg} (h : r.toNat < n) :
    (s.storeBytes a (s.firstRegs n)).byte (a + r.toNat) = s.reg r := by
  have hlt : r.toNat < (s.firstRegs n).length := by rwa [firstRegs_length]
  rw [storeBytes_byte_at s hm a hlt, firstRegs_getElem, BitVec.ofNat_toNat, BitVec.setWidth_eq]

theorem bcdDigit_toNat (b : Byte) (k : Nat) (h : k < 3) :
    ((bcdDigits b)[k]'h).toNat = b.toNat / 10 ^ (2 - k) % 10 := by
  have hb := b.isLt
  interval_cases k <;> simp [bcdDigits] <;> omega

theorem storeBytes_bcd_byte {s : State} (hm : s.memoryCanonical) (a : Nat) (b : Byte) (k : Nat) (h : k < 3) :
    ((s.storeBytes a (bcdDigits b)).byte (a + k)).toNat = b.toNat / 10 ^ (2 - k) % 10 := by
  rw [storeBytes_byte_at s hm a (h : k < (bcdDigits b).length), bcdDigit_toNat]

/-! ## The statements -/

/-- Settles O40 (R151): the 16-bit sum, which no flag and no check accompanies. -/
theorem addToIndex : Obligations.AddToIndex := fun x s => by
  have hsum : (s.i + wordOfByte (s.reg x)).toNat = (s.i.toNat + (s.reg x).toNat) % 65536 := by
    rw [BitVec.toNat_add, wordOfByte_toNat]
  exact ⟨decode_addI x, _, exec_addI x s, hsum, rfl, onlyIndexPc_setI_advance s _⟩

/-- Settles O41 (R152): five times a nibble fits 16 bits, so I is the plain product. -/
theorem glyphAddressOfDigit : Obligations.GlyphAddressOfDigit := fun x s => by
  have haddr : (glyphAddress (glyphIndex (s.reg x))).toNat = 5 * ((s.reg x).toNat % 16) := by
    rw [glyphAddress_toNat, glyphIndex_toNat]
  exact ⟨decode_ldGlyph x, _, exec_ldGlyph x s, haddr, rfl, onlyIndexPc_setI_advance s _⟩

/-- Settles O42 (R153): the k-th stored byte is the k-th digit. -/
theorem bcdStoresDigits : Obligations.BcdStoresDigits := fun x s => by
  refine ⟨decode_bcd x, fun hm hle => ⟨_, exec_bcd_of_le x hle, ?hundreds, ?tens, ?ones, rfl, rfl, rfl, ?frame⟩⟩
  case hundreds =>
    have hb := (s.reg x).isLt
    exact (storeBytes_bcd_byte hm _ (s.reg x) 0 (by decide)).trans (Nat.mod_eq_of_lt (by omega))
  case tens => exact storeBytes_bcd_byte hm _ (s.reg x) 1 (by decide)
  case ones => exact (storeBytes_bcd_byte hm _ (s.reg x) 2 (by decide)).trans (by simp)
  case frame => exact fun a ha => storeBytes_byte_other s ha

/-- Settles O43 (R154): the r-th stored byte is Vr, and the store reaches no further than the X + 1 bytes. -/
theorem storeRegisters : Obligations.StoreRegisters := fun x s => by
  refine ⟨decode_store x, fun hm hle => ⟨_, exec_store_of_le x hle, fun r hr => ?stored,
    indexAfterTransfer_toNat s x, rfl, rfl, fun a ha => ?frame⟩⟩
  case stored => exact storeBytes_firstRegs_byte hm _ (Nat.lt_succ_of_le hr)
  case frame => exact storeBytes_byte_other s (by rwa [firstRegs_length])

/-- Settles O44 (R155): the multiple load reads each register from its place and changes the register file only. -/
theorem loadRegisters : Obligations.LoadRegisters := fun x s => by
  refine ⟨decode_load x, fun hle => ⟨_, exec_load_of_le x hle, fun r => ?loaded,
    indexAfterTransfer_toNat s x, ?pc, ?frame, fun a => ?memory⟩⟩
  case loaded => simpa [Nat.lt_succ_iff] using loadRegs_reg s s.i.toNat x.isLt r
  case pc => simp
  case frame => rw [loadRegs_frame]; rfl
  case memory => rw [loadRegs_frame]; rfl

/-- Settles O45 (R57, R157): each of the four checks its whole range before any effect. -/
theorem accessBeyondMemoryHalts : Obligations.AccessBeyondMemoryHalts := fun x y n _ =>
  ⟨exec_drw_of_gt x y n, exec_bcd_of_gt x, exec_store_of_gt x, exec_load_of_gt x⟩

/-- Settles O46 (R154, R155): the load reads the bytes the store put at the same addresses. -/
theorem storeThenLoadRestores : Obligations.StoreThenLoadRestores := fun x s hm hle => by
  refine ⟨_, exec_store_of_le x hle, fun u hmem hi => ?_⟩
  have hle' : u.i.toNat + x.toNat ≤ 0xFFF := by rwa [hi]
  refine ⟨_, exec_load_of_le x hle', fun r hr => ?_⟩
  have hlt : r.toNat < x.toNat + 1 := Nat.lt_succ_of_le hr
  calc (u.loadRegs u.i.toNat (x.toNat + 1)).reg r
      = u.byte (u.i.toNat + r.toNat) := by rw [loadRegs_reg u _ x.isLt, if_pos hlt]
    _ = (s.storeBytes s.i.toNat (s.firstRegs (x.toNat + 1))).byte (s.i.toNat + r.toNat) := by
      rw [State.byte, hmem, hi]; rfl
    _ = s.reg r := storeBytes_firstRegs_byte hm _ hlt

end Sys2Proof.Machine
end

section
/-! Keys and the random byte (45_timers_input_random.md). -/

namespace Sys2Proof.Machine

/-! ## Meanings (R183 to R186) -/

theorem exec_rnd (x : Reg) (nn : Byte) (s : State) :
    exec (.rnd x nn) s = .next (s.answered.setReg x (s.answer.rand &&& nn)).advance := rfl

theorem exec_skp (x : Reg) (s : State) :
    exec (.skp x) s = .next (s.answered.skipIf (keyDown s.answer.keys (keyIndex (s.reg x)))) := rfl

theorem exec_sknp (x : Reg) (s : State) :
    exec (.sknp x) s = .next (s.answered.skipIf (!keyDown s.answer.keys (keyIndex (s.reg x)))) := rfl

theorem exec_ldKey (x : Reg) (s : State) : exec (.ldKey x) s = .next (s.keyStep x) := rfl

/-! ## The key that is tested, and the keys that can be reported (R30, R187) -/

/-- EX9E and EXA1 test the key of the low nibble. -/
theorem keyDown_keyIndex (keys : BitVec 16) (b : Byte) :
    keyDown keys (keyIndex b) = keys.getLsbD (b.toNat % 16) := by
  simp [keyDown, keyIndex]

/-- Counting round from any preferred key, every key is met. -/
theorem mem_keys_from (pick k : Nibble) : k ∈ (List.range 16).map fun j => pick + BitVec.ofNat 4 j := by
  refine List.mem_map.2 ⟨(k - pick).toNat, List.mem_range.2 (k - pick).isLt, ?_⟩
  rw [BitVec.ofNat_toNat, BitVec.setWidth_eq, BitVec.add_comm, BitVec.sub_add_cancel]

theorem keys_eq_zero_iff (keys : BitVec 16) : keys = 0#16 ↔ ∀ k, keyDown keys k = false := by
  refine ⟨fun h k => by simp [h, keyDown], fun h => BitVec.eq_of_getLsbD_eq fun i hi => ?_⟩
  have hk := h (BitVec.ofNat 4 i)
  rw [keyDown, BitVec.toNat_ofNat, Nat.mod_eq_of_lt hi] at hk
  simpa using hk

/-- No key is reported iff none is down. -/
theorem anyKey_eq_none_iff (keys : BitVec 16) (pick : Nibble) : anyKey keys pick = none ↔ keys = 0#16 := by
  rw [keys_eq_zero_iff, anyKey, List.find?_eq_none]
  exact ⟨fun h k => by simpa using h k (mem_keys_from pick k), fun h k _ => by simp [h k]⟩

/-! ## What a query of the environment leaves unchanged -/

theorem onlyRegsPcQuery_setReg_advance (s : State) (x : Reg) (b : Byte) :
    s.onlyRegsPcQuery (s.answered.setReg x b).advance := ⟨rfl, fun _ => rfl⟩

theorem answered_skipIf_frame (s : State) (c : Bool) :
    s.answered.skipIf c = { s with pc := (s.answered.skipIf c).pc, env := s.env.tail, queries := s.queries + 1 } ∧
    ∀ a, (s.answered.skipIf c).byte a = s.byte a := ⟨rfl, fun _ => rfl⟩

/-! ## The statements -/

/-- Settles O52 (R186): the drawn byte AND NN, bit by bit, hence at most NN. -/
theorem randomByteMasked : Obligations.RandomByteMasked := fun x nn s => by
  have hreg : (s.answered.setReg x (s.answer.rand &&& nn)).advance.reg x = s.answer.rand &&& nn :=
    reg_setReg_same s.answered x _
  refine ⟨decode_rnd x nn, _, exec_rnd x nn s, fun k => ?bits, ?bound, ?others, rfl,
    onlyRegsPcQuery_setReg_advance s x _⟩
  case bits => rw [hreg, BitVec.getLsbD_and]
  case bound =>
    rw [hreg, BitVec.toNat_and]
    exact Nat.and_le_right
  case others => exact fun r hr => reg_setReg_other s.answered hr _

/-- Settles O53 (R183, R184, R187): the conditional skip on the bit of the low nibble, and on its negation. -/
theorem skipOnKey : Obligations.SkipOnKey := fun x s => by
  refine ⟨decode_skp x, decode_sknp x, ⟨_, exec_skp x s, ?down, answered_skipIf_frame s _⟩,
    ⟨_, exec_sknp x s, ?up, answered_skipIf_frame s _⟩⟩
  case down => rw [keyDown_keyIndex, skipIf_pc, answered_pc]
  case up =>
    rw [keyDown_keyIndex, skipIf_pc, answered_pc]
    cases s.answer.keys.getLsbD ((s.reg x).toNat % 16) <;> rfl

/-- Settles O54 (R185): with a key down one is reported and stored; with none the machine begins to wait. -/
theorem keyWaitInstruction : Obligations.KeyWaitInstruction := fun x s => by
  refine ⟨decode_ldKey x, fun hkeys => ?stores, fun hkeys => ?waits⟩
  case stores =>
    obtain ⟨k, hk⟩ := Option.ne_none_iff_exists'.1 (mt (anyKey_eq_none_iff s.answer.keys s.answer.pick).1 hkeys)
    refine ⟨_, k, (exec_ldKey x s).trans (congrArg _ (keyStep_of_some hk x)), keyDown_of_anyKey hk, fun r => ?_, rfl,
      onlyRegsPcQuery_setReg_advance s x _⟩
    exact byteOfKey_eq k ▸ reg_setReg s.answered x r _
  case waits =>
    have hk : s.reportedKey = none := (anyKey_eq_none_iff _ _).2 hkeys
    rw [exec_ldKey, keyStep_of_none hk]
    rfl

/-- Settles O55 (R30): the search meets every key; what it finds is down; and it begins with the preferred key. -/
theorem anyKeyReportsADownKey : Obligations.AnyKeyReportsADownKey := fun keys =>
  ⟨anyKey_eq_none_iff keys, fun _ _ => keyDown_of_anyKey, fun k hk => ⟨k, anyKey_pick hk⟩⟩

end Sys2Proof.Machine
end

section
/-! Memory as data, the state after reset and the construction of a machine (70_reset_and_hazards.md). -/

namespace Sys2Proof.Machine

/-! ## Canonical memories are equal when they read the same (R50) -/

/-- The first entry of a canonical memory: its byte is not the reset byte, lower addresses read as reset, and the rest
is canonical with higher addresses. -/
theorem Memory.wf_cons {c : Host.Cell} {m : List Host.Cell} (h : Memory.wf (c :: m)) :
    c.2 ≠ resetByte c.1 ∧ (∀ d ∈ m, c.1 < d.1) ∧ Memory.wf m := by
  obtain ⟨hsorted, hcells⟩ := h
  obtain ⟨hlt, hsorted'⟩ := List.pairwise_cons.1 hsorted
  exact ⟨(hcells c (by simp)).2, hlt, hsorted', fun d hd => hcells d (List.mem_cons_of_mem _ hd)⟩

theorem Memory.read_cons_same (c : Host.Cell) (m : List Host.Cell) : Memory.read (c :: m) c.1 = c.2 := by
  simp [Memory.read]

theorem Memory.read_cons_other (c : Host.Cell) (m : List Host.Cell) {a : Nat} (h : a ≠ c.1) :
    Memory.read (c :: m) a = Memory.read m a := by simp [Memory.read, h]

/-- Of two canonical memories that read the same, the second lists no later first address than the first: else the first
one's entry would be unlisted in the second, and so read as reset. -/
theorem Memory.head_le_of_read_eq {c d : Host.Cell} {m m' : List Host.Cell} (hc : Memory.wf (c :: m))
    (hd : Memory.wf (d :: m')) (h : ∀ a, Memory.read (c :: m) a = Memory.read (d :: m') a) : d.1 ≤ c.1 := by
  obtain ⟨hne, -, -⟩ := Memory.wf_cons hc
  obtain ⟨-, hlt, -⟩ := Memory.wf_cons hd
  by_contra hcd
  have hbelow : Memory.read (d :: m') c.1 = resetByte c.1 := by
    refine Memory.read_below fun e he => ?_
    rcases List.mem_cons.1 he with rfl | he
    · omega
    · exact (Nat.not_le.1 hcd).trans (hlt e he)
  exact hne (by rw [← Memory.read_cons_same c m, h, hbelow])

/-- A canonical memory that reads as reset everywhere lists nothing. -/
theorem Memory.eq_nil_of_read {m : List Host.Cell} (hm : Memory.wf m) (h : ∀ a, Memory.read m a = resetByte a) :
    m = [] := by
  cases m with
  | nil => rfl
  | cons c m => exact absurd ((Memory.read_cons_same c m).symm.trans (h c.1)) (Memory.wf_cons hm).1

theorem Memory.eq_of_read_eq {m m' : List Host.Cell} (hm : Memory.wf m) (hm' : Memory.wf m')
    (h : ∀ a, Memory.read m a = Memory.read m' a) : m = m' := by
  induction m generalizing m' with
  | nil => exact (Memory.eq_nil_of_read hm' fun a => (h a).symm).symm
  | cons c m ih =>
    cases m' with
    | nil => exact Memory.eq_nil_of_read hm h
    | cons d m' =>
      have haddr : c.1 = d.1 := Nat.le_antisymm (Memory.head_le_of_read_eq hm' hm fun a => (h a).symm)
        (Memory.head_le_of_read_eq hm hm' h)
      have hbyte : c.2 = d.2 := by
        rw [← Memory.read_cons_same c m, h, haddr, Memory.read_cons_same]
      obtain ⟨-, hlt, hwf⟩ := Memory.wf_cons hm
      obtain ⟨-, hlt', hwf'⟩ := Memory.wf_cons hm'
      have hrest : ∀ a, Memory.read m a = Memory.read m' a := by
        intro a
        by_cases ha : a = c.1
        · rw [ha, Memory.read_below hlt, haddr, Memory.read_below hlt']
        · rw [← Memory.read_cons_other c m ha, h, Memory.read_cons_other d m' (haddr ▸ ha)]
      rw [Prod.ext haddr hbyte, ih hwf hwf' hrest]

/-! ## The reset contents (R34, R52) -/

theorem resetByte_glyph (k : Fin 80) : resetByte k.val = glyphTable[k] :=
  List.getD_eq_getElem (glyphBytesLow ++ glyphBytesHigh) 0#8 k.isLt

theorem resetByte_above {a : Nat} (h : 0x050 ≤ a) : resetByte a = 0#8 :=
  List.getD_eq_default (glyphBytesLow ++ glyphBytesHigh) 0#8 h

/-! ## The constructed memory (R230, R231) -/

/-- The memory of a constructed machine. -/
def constructedMemory (glyphs : Vector Byte 80) (image : List Byte) : List Host.Cell :=
  Memory.writeBytes (Memory.writeBytes [] 0x000 glyphs.toList) 0x200 image

theorem construct_of_fits (config : Config) (glyphs : Vector Byte 80) {image : List Byte} (h : image.length ≤ 3584) :
    State.construct config glyphs image =
      .next { State.reset with mem := constructedMemory glyphs image, config := config } := by
  simp [State.construct, imageFits, h, constructedMemory]

theorem construct_of_too_long (config : Config) (glyphs : Vector Byte 80) {image : List Byte}
    (h : image.length > 3584) : State.construct config glyphs image = .refused .imageTooLong := by
  simp [State.construct, imageFits, Nat.not_le.2 h]

section
variable (glyphs : Vector Byte 80) {image : List Byte}

theorem wf_glyphMemory : Memory.wf (Memory.writeBytes [] 0x000 glyphs.toList) :=
  Memory.wf_writeBytes ⟨List.Pairwise.nil, nofun⟩ (by simp)

theorem wf_constructedMemory (h : image.length ≤ 3584) : Memory.wf (constructedMemory glyphs image) :=
  Memory.wf_writeBytes (wf_glyphMemory glyphs) (by omega)

theorem read_constructedMemory_image {k : Nat} (h : k < image.length) :
    Memory.read (constructedMemory glyphs image) (0x200 + k) = image[k] :=
  Memory.read_writeBytes_at (wf_glyphMemory glyphs).1 0x200 h

theorem read_constructedMemory_glyph (k : Fin 80) : Memory.read (constructedMemory glyphs image) k.val = glyphs[k] := by
  have himage : ¬(0x200 ≤ k.val ∧ k.val < 0x200 + image.length) := by omega
  have hk : k.val < glyphs.toList.length := by simp
  have hread : Memory.read (Memory.writeBytes [] 0x000 glyphs.toList) (0x000 + k.val) = glyphs.toList[k.val] :=
    Memory.read_writeBytes_at List.Pairwise.nil 0x000 hk
  rw [constructedMemory, Memory.read_writeBytes_other _ himage]
  simpa using hread

/-- Outside the glyph table and the image everything reads 0. -/
theorem read_constructedMemory_zero {a : Nat} (h : 0x050 ≤ a) (h' : a < 0x200 ∨ 0x200 + image.length ≤ a) :
    Memory.read (constructedMemory glyphs image) a = 0#8 := by
  have himage : ¬(0x200 ≤ a ∧ a < 0x200 + image.length) := by omega
  have hglyphs : ¬(0x000 ≤ a ∧ a < 0x000 + glyphs.toList.length) := by simp; omega
  rw [constructedMemory, Memory.read_writeBytes_other _ himage, Memory.read_writeBytes_other _ hglyphs]
  exact resetByte_above h

end

/-! ## The statements -/

/-- Settles O56 (R34, R232): every register, timer and pixel is a zero of the reset state, and memory lists nothing. -/
theorem resetState : Obligations.ResetState := by
  refine ⟨fun r => ?regs, rfl, rfl, rfl, rfl, rfl, pixel_blank, rfl, resetByte_glyph, fun _ => resetByte_above⟩
  case regs => exact Vector.getElem_replicate _

/-- Settles O57 (R55, R231): the image is stored last, and the first fetch reads its first two bytes. -/
theorem imageLoadedVerbatim : Obligations.ImageLoadedVerbatim := fun config glyphs image hfits => by
  refine ⟨_, construct_of_fits config glyphs hfits, rfl, rfl, fun k hk => ?bytes, fun h2 => ?fetched⟩
  case bytes => exact read_constructedMemory_image glyphs hk
  case fetched =>
    have h0 := read_constructedMemory_image glyphs (show 0 < image.length by omega)
    have h1 := read_constructedMemory_image glyphs (show 1 < image.length by omega)
    exact congrArg₂ wordOfBytes h0 h1

/-- Settles O58 (R34, R52, R230, R234): the glyphs are written first and the image above them, both in canonical form. -/
theorem constructLeavesResetState : Obligations.ConstructLeavesResetState := fun config glyphs _ =>
  ⟨fun hfits => ⟨_, construct_of_fits config glyphs hfits, fun k => read_constructedMemory_glyph glyphs k,
    fun _ h h' => read_constructedMemory_zero glyphs h h', wf_constructedMemory glyphs hfits, rfl⟩,
    construct_of_too_long config glyphs⟩

/-- Settles O59 (R50): the first entries agree, since each address is listed where the bytes differ from reset. -/
theorem memoryIsWhatItReadsAs : Obligations.MemoryIsWhatItReadsAs := fun _ _ => Memory.eq_of_read_eq

end Sys2Proof.Machine
end

section
/-! Display (44_display.md): the sprite blit as a picture. A blit is described by the picture it XORs into the
framebuffer; pictures that share no pixel compose, and those of the columns and rows of a sprite share none. -/

namespace Sys2Proof.Machine

/-! ## A blit as the picture it XORs in (R171, R172) -/

/-- From `d` to `e` the picture `p` was XORed in, and a hit is one of before or a lit pixel that `p` covers. -/
def Blit.xored (d e : Blit) (p : Fin 64 → Fin 32 → Bool) : Prop :=
  (∀ x y, e.fb.pixel x y = (d.fb.pixel x y ^^ p x y)) ∧
    (e.hit = true ↔ d.hit = true ∨ ∃ x y, d.fb.pixel x y = true ∧ p x y = true)

theorem xored_refl (d : Blit) {p : Fin 64 → Fin 32 → Bool} (hp : ∀ x y, p x y = false) : d.xored d p :=
  ⟨fun x y => by simp [hp], by simp [hp]⟩

/-- Two pictures that share no pixel, one after the other, are their union. -/
theorem xored_trans {d e f : Blit} {p q r : Fin 64 → Fin 32 → Bool} (hp : d.xored e p) (hq : e.xored f q)
    (hdisj : ∀ x y, p x y = true → q x y = false) (hr : ∀ x y, r x y = (p x y || q x y)) : d.xored f r := by
  obtain ⟨hpix, hhit⟩ := hp
  obtain ⟨hpix', hhit'⟩ := hq
  have hunder : ∀ x y, q x y = true → e.fb.pixel x y = d.fb.pixel x y := by
    intro x y hqxy
    have hpxy : p x y = false := Bool.eq_false_iff.2 fun h => by simp [hdisj x y h] at hqxy
    simp [hpix, hpxy]
  refine ⟨fun x y => ?pixels, ?hits⟩
  case pixels =>
    have hd := hdisj x y
    rw [hpix', hpix, hr]
    cases hpxy : p x y
    · simp
    · simp [hd hpxy]
  case hits =>
    rw [hhit', hhit, or_assoc]
    refine or_congr_right ⟨?_, ?_⟩
    · rintro (⟨x, y, hl, hb⟩ | ⟨x, y, hl, hb⟩)
      · exact ⟨x, y, hl, by simp [hr, hb]⟩
      · exact ⟨x, y, hunder x y hb ▸ hl, by simp [hr, hb]⟩
    · rintro ⟨x, y, hl, hb⟩
      rw [hr, Bool.or_eq_true] at hb
      rcases hb with hb | hb
      · exact .inl ⟨x, y, hl, hb⟩
      · exact .inr ⟨x, y, (hunder x y hb).trans hl, hb⟩

/-- The picture of one sprite bit. -/
theorem xored_bit (d : Blit) (px : Fin 64) (py : Fin 32) (b : Bool) :
    d.xored (d.bit px py b) fun x y => decide (x = px ∧ y = py) && b := by
  refine ⟨fun x y => ?pixels, ?hits⟩
  case pixels =>
    rw [pixel_bit]
    by_cases h : x = px ∧ y = py
    · simp [h]
    · simp [h]
  case hits =>
    rw [hit_bit]
    simp

/-! ## Columns and rows of a sprite (R171, R173) -/

/-- The sprite column that falls on x-coordinate `px`, counted round from the origin. -/
def columnAt (x0 : Byte) (px : Fin 64) : Nat := (px.val + 256 - x0.toNat) % 64

/-- The sprite row that falls on y-coordinate `py`. -/
def rowAt (y0 : Byte) (py : Fin 32) : Nat := (py.val + 256 - y0.toNat) % 32

theorem eq_spriteX_iff (x0 : Byte) (px : Fin 64) {c : Nat} (hc : c < 64) : px = spriteX x0 c ↔ columnAt x0 px = c := by
  have hx := x0.isLt
  have hp := px.isLt
  rw [Fin.ext_iff, spriteX, Fin.val_ofNat, columnAt]
  omega

theorem eq_spriteY_iff (y0 : Byte) (py : Fin 32) {r : Nat} (hr : r < 32) : py = spriteY y0 r ↔ rowAt y0 py = r := by
  have hy := y0.isLt
  have hp := py.isLt
  rw [Fin.ext_iff, spriteY, Fin.val_ofNat, rowAt]
  omega

/-- The picture of the first `n` columns of a sprite row drawn at y-coordinate `py`. -/
def rowPicture (x0 : Byte) (py : Fin 32) (row : Byte) (n : Nat) (x : Fin 64) (y : Fin 32) : Bool :=
  decide (y = py) && decide (columnAt x0 x < n) && row.getLsbD (7 - columnAt x0 x)

theorem xored_columns (x0 : Byte) (py : Fin 32) (row : Byte) (d : Blit) {n : Nat} (hn : n ≤ 64) :
    d.xored (Blit.columns x0 py row d n) (rowPicture x0 py row n) := by
  induction n with
  | zero => exact xored_refl d fun x y => by simp [rowPicture]
  | succ n ih =>
    have hx : ∀ x, x = spriteX x0 n ↔ columnAt x0 x = n := fun x => eq_spriteX_iff x0 x hn
    refine xored_trans (ih (by omega)) (xored_bit _ (spriteX x0 n) py _) (fun x y h => ?disjoint) (fun x y => ?union)
    case disjoint =>
      have hlt : columnAt x0 x < n := by
        simp only [rowPicture, Bool.and_eq_true, decide_eq_true_eq] at h
        exact h.1.2
      simp [hx, hlt.ne]
    case union =>
      simp only [hx, rowPicture, Nat.lt_succ_iff_lt_or_eq]
      by_cases hc : columnAt x0 x = n
      · simp [hc]
      · simp [hc]

/-- The picture of consecutive sprite rows, the first of which has index `r`. -/
def rowsPicture (x0 y0 : Byte) (r : Nat) (rows : List Byte) (x : Fin 64) (y : Fin 32) : Bool :=
  decide (r ≤ rowAt y0 y) && decide (columnAt x0 x < 8) &&
    (rows.getD (rowAt y0 y - r) 0#8).getLsbD (7 - columnAt x0 x)

theorem xored_rows (x0 y0 : Byte) (rows : List Byte) (d : Blit) {r : Nat} (hr : r + rows.length ≤ 32) :
    d.xored (Blit.rows x0 y0 d r rows) (rowsPicture x0 y0 r rows) := by
  induction rows generalizing d r with
  | nil => exact xored_refl d fun x y => by simp [rowsPicture]
  | cons row rest ih =>
    rw [List.length_cons] at hr
    have hy : ∀ y, y = spriteY y0 r ↔ rowAt y0 y = r := fun y => eq_spriteY_iff y0 y (by omega)
    refine xored_trans (xored_columns x0 (spriteY y0 r) row d (by decide)) (ih _ (by omega)) (fun x y h => ?disjoint)
      (fun x y => ?union)
    case disjoint =>
      have hrow : rowAt y0 y = r := by
        simp only [rowPicture, hy, Bool.and_eq_true, decide_eq_true_eq] at h
        exact h.1.1
      simp [rowsPicture, hrow]
    case union =>
      simp only [rowsPicture, rowPicture, hy]
      rcases Nat.lt_trichotomy (rowAt y0 y) r with hlt | heq | hgt
      · simp [hlt.ne, Nat.not_le.2 hlt, show ¬ r + 1 ≤ rowAt y0 y by omega]
      · simp [heq]
      · rw [show rowAt y0 y - r = rowAt y0 y - (r + 1) + 1 by omega, List.getD_cons_succ]
        simp [hgt.ne', hgt.le, Nat.succ_le_of_lt hgt]

theorem readBytes_getD (m : List Host.Cell) (a n k : Nat) :
    (Memory.readBytes m a n).getD k 0#8 = if k < n then Memory.read m (a + k) else 0#8 := by
  split
  · next h => rw [List.getD_eq_getElem _ _ (by rwa [readBytes_length]), readBytes_getElem]
  · next h => rw [List.getD_eq_default _ _ (by rw [readBytes_length]; omega)]

theorem spriteBit_eq (s : State) (x0 y0 : Byte) (n : Nat) (px : Fin 64) (py : Fin 32) :
    s.spriteBit x0 y0 n px py = (decide (rowAt y0 py < n) && decide (columnAt x0 px < 8) &&
      (s.byte (s.i.toNat + rowAt y0 py)).getLsbD (7 - columnAt x0 px)) := rfl

/-- The rows of the blit are the bytes from I on, and their picture is `spriteBit`. -/
theorem rowsPicture_readBytes (s : State) (x0 y0 : Byte) (n : Nat) (px : Fin 64) (py : Fin 32) :
    rowsPicture x0 y0 0 (Memory.readBytes s.mem s.i.toNat n) px py = s.spriteBit x0 y0 n px py := by
  rw [spriteBit_eq, rowsPicture, Nat.sub_zero, readBytes_getD]
  by_cases h : rowAt y0 py < n
  · simp [h, State.byte]
  · simp [h]

/-- The whole blit XORs the sprite into the framebuffer, from no hit. -/
theorem xored_blit (s : State) (x y : Reg) {n : Nat} (hn : n ≤ 32) :
    Blit.xored { fb := s.fb, hit := false } (s.blit x y n) (s.spriteBit (s.reg x) (s.reg y) n) := by
  have h := xored_rows (s.reg x) (s.reg y) (Memory.readBytes s.mem s.i.toNat n) { fb := s.fb, hit := false } (r := 0)
    (by simpa using hn)
  rwa [funext₂ (rowsPicture_readBytes s (s.reg x) (s.reg y) n)] at h

/-! ## DXYN (R171) -/

theorem exec_drw_of_le (x y : Reg) {n : Nibble} {s : State} (h : n = 0#4 ∨ s.i.toNat + n.toNat - 1 ≤ 0xFFF) :
    exec (.drw x y n) s = .next (s.completed (.drw x y n)) := by
  refine exec_of_haltsWith_none (if_neg fun ⟨hpos, hgt⟩ => ?_)
  rcases h with rfl | hle
  · exact absurd hpos (by decide)
  · omega

section
variable (s : State) (x y : Reg) (n : Nibble)

theorem drw_pixel (px : Fin 64) (py : Fin 32) : (s.completed (.drw x y n)).fb.pixel px py =
    (s.fb.pixel px py ^^ s.spriteBit (s.reg x) (s.reg y) n.toNat px py) :=
  (xored_blit s x y (n.isLt.le.trans (by decide))).1 px py

theorem drw_vf : (s.completed (.drw x y n)).reg vf = if (s.blit x y n.toNat).hit then 1#8 else 0#8 :=
  reg_setReg_same _ vf _

/-- VF is 1 iff a lit pixel lies under a 1 bit of the sprite. -/
theorem drw_vf_iff : (s.completed (.drw x y n)).reg vf = 1#8 ↔
    ∃ px py, s.fb.pixel px py = true ∧ s.spriteBit (s.reg x) (s.reg y) n.toNat px py = true := by
  have hhit := (xored_blit s x y (n.isLt.le.trans (by decide))).2
  simp only [Bool.false_eq_true, false_or] at hhit
  rw [drw_vf, ← hhit]
  cases (s.blit x y n.toNat).hit <;> simp

theorem drw_vf_zero_or_one :
    (s.completed (.drw x y n)).reg vf = 0#8 ∨ (s.completed (.drw x y n)).reg vf = 1#8 := completed_vf s _ rfl rfl

theorem drw_reg_other {r : Reg} (h : r ≠ vf) : (s.completed (.drw x y n)).reg r = s.reg r :=
  completed_reg_other s _ rfl (.inl h)

end

/-- A pixel goes off exactly where a lit one lies under a 1 bit. -/
theorem goes_off_iff (old sprite : Bool) : old = true ∧ (old ^^ sprite) = false ↔ old = true ∧ sprite = true := by
  cases old <;> cases sprite <;> decide

/-- The sprite is what I and memory hold. -/
theorem spriteBit_congr {s u : State} (hmem : u.mem = s.mem) (hi : u.i = s.i) (x0 y0 : Byte) (n : Nat) (px : Fin 64)
    (py : Fin 32) : u.spriteBit x0 y0 n px py = s.spriteBit x0 y0 n px py := by
  rw [spriteBit_eq, spriteBit_eq, State.byte, State.byte, hmem, hi]

/-! ## The statements -/

/-- Settles O49 (R171, R172, R173): the blit is the one picture of all its rows and columns, which share no pixel. -/
theorem drawXorsThePicture : Obligations.DrawXorsThePicture := fun x y n s => by
  refine ⟨decode_drw x y n, fun h => ⟨_, exec_drw_of_le x y h, drw_pixel s x y n, drw_vf_zero_or_one s x y n, ?flag,
    fun r hr => drw_reg_other s x y n hr, rfl, rfl, fun _ => rfl⟩⟩
  case flag => simp only [drw_vf_iff, drw_pixel, goes_off_iff]

/-- Settles O50 (R171): the second draw XORs the same picture in; from a blank framebuffer the lit pixels it meets are
the 1 bits of the sprite. -/
theorem drawTwiceRestores : Obligations.DrawTwiceRestores := fun x y n s h => by
  refine ⟨_, exec_drw_of_le x y h, fun u hfb hmem hi hx hy => ?_⟩
  have hu : n = 0#4 ∨ u.i.toNat + n.toNat - 1 ≤ 0xFFF := by rwa [hi]
  have hbit : ∀ px py, u.spriteBit (u.reg x) (u.reg y) n.toNat px py =
      s.spriteBit (s.reg x) (s.reg y) n.toNat px py := by
    rw [hx, hy]
    exact spriteBit_congr hmem hi _ _ _
  have hlit : ∀ px py, u.fb.pixel px py =
      (s.fb.pixel px py ^^ s.spriteBit (s.reg x) (s.reg y) n.toNat px py) := fun px py => by rw [hfb, drw_pixel]
  refine ⟨_, exec_drw_of_le x y hu, pixel_ext fun px py => ?restored, fun hblank => ⟨?first, ?second⟩⟩
  case restored => rw [drw_pixel, hbit, hlit, Bool.xor_assoc, Bool.xor_self, Bool.xor_false]
  case first =>
    refine (drw_vf_zero_or_one s x y n).resolve_right fun hvf => ?_
    obtain ⟨px, py, hl, -⟩ := (drw_vf_iff s x y n).1 hvf
    simp [hblank, pixel_blank] at hl
  case second => simp [drw_vf_iff, hbit, hlit, hblank, pixel_blank]

end Sys2Proof.Machine
end
